-- ==== Sys2Proof/Word.lean ====
section
/-! DEFINITION. The two word types of the display engine: the 32-bit command and register word and the 8-bit byte
(spec 00_scope R8). Everything a field of an encoding needs stands in Decode.lean, so that it can be mended there. -/

namespace Sys2Proof

/-- A 32-bit command word or host register (R8, R70). Bit 0 is the least significant bit (R9). -/
abbrev Word := BitVec 32

/-- An 8-bit character code, segment pattern, address or data byte (R8). -/
abbrev Byte := BitVec 8

end Sys2Proof
end

