-- ==== Sys2Proof/Syntax.lean ====
section
/-! DEFINITION. The host commands: one constructor per row of spec/opcode_table.json (R70 to R72, R76). The internal
sequences of the protocol engine are no commands (R75) and have no constructor; they are event lists, in
Machine/Engine.lean. -/

namespace Sys2Proof

/-- A host command. Operands are as the command word carries them: a position is kept whole, and masked by the
meaning (R55). The rate is the number it stands for; `Instr.wellFormed` says that it fits its 24 bits (R71). -/
inductive Instr where
  /-- SET_SPEED rate (R101). -/
  | setSpeed (rate : Nat)
  /-- WRITE_RAW pos, pattern (R150). -/
  | writeRaw (pos : Byte) (pattern : Byte)
  /-- WRITE_CHAR pos, code (R151, R152). -/
  | writeChar (pos : Byte) (code : Byte)
  /-- WRITE_CHAR_WITH_POINT pos, code (R153). -/
  | writeCharWithPoint (pos : Byte) (code : Byte)
  /-- DISPLAY_ON bright (R154). -/
  | displayOn (bright : BitVec 3)
  /-- DISPLAY_OFF (R155). -/
  | displayOff
  /-- DISPLAY_CLEAR (R156). -/
  | displayClear
  deriving DecidableEq, Repr

end Sys2Proof
end

