-- ==== Sys2Proof/WellFormed.lean ====
section
/-! DEFINITION. Which commands the command word can carry. Every operand but the rate has the width of its field in
its type; the rate is checked here. -/

namespace Sys2Proof

/-- A rate above 16777215 cannot be encoded (R71, decision D4); every other command is encodable as it stands. A rate
of 0 is well formed: it is encoded, and rejected when it is submitted (R102). -/
def Instr.wellFormed : Instr → Bool
  | .setSpeed rate => decide (rate < 2 ^ 24)
  | .writeRaw _ _ => true
  | .writeChar _ _ => true
  | .writeCharWithPoint _ _ => true
  | .displayOn _ => true
  | .displayOff => true
  | .displayClear => true

end Sys2Proof
end

