-- ==== Sys2Proof/Decode.lean ====
section
/-! DEFINITION. Decoding a 32-bit command word, and the encoder (30_encoding R70 to R74). The decoder reads the fields
of R70; the mask and match rows of R72 stand beside it as data, and an obligation says that the two agree. -/

namespace Sys2Proof

/-- OP = word[31:24] (R70). -/
def opField (w : Word) : BitVec 8 := w.extractLsb' 24 8

/-- RATE = word[23:0], format S (R71). -/
def rateField (w : Word) : BitVec 24 := w.extractLsb' 0 24

/-- Z = word[23:16], format P: reserved, must be 0 (R70). -/
def zField (w : Word) : BitVec 8 := w.extractLsb' 16 8

/-- POS = word[15:8], format P (R71). -/
def posField (w : Word) : Byte := w.extractLsb' 8 8

/-- CODE or PATTERN = word[7:0], format P (R71). -/
def lowField (w : Word) : Byte := w.extractLsb' 0 8

/-- word[23:3], format B: reserved, must be 0 (R73). -/
def brightZeroField (w : Word) : BitVec 21 := w.extractLsb' 3 21

/-- BRIGHT = word[2:0], format B (R71). -/
def brightField (w : Word) : BitVec 3 := w.extractLsb' 0 3

/-- Why a word is ILLEGAL_ENCODING: the four lines of R73. The block itself records only the cause (R201). -/
inductive IllegalEncoding where
  /-- OP is 0x00 or 0x08 to 0xFF. -/
  | unassignedOp
  /-- A format P word with Z not 0. -/
  | reservedP
  /-- A format B word with word[23:3] not 0. -/
  | reservedB
  /-- A format N word with word[23:0] not 0. -/
  | reservedN
  deriving DecidableEq, Repr

/-- A format P word: `build` of POS and the low byte, if Z is 0 (R70, R73). -/
def decodeP (build : Byte → Byte → Instr) (w : Word) : Except IllegalEncoding Instr :=
  if zField w = 0 then .ok (build (posField w) (lowField w)) else .error .reservedP

/-- A format B word: DISPLAY_ON with its brightness, if word[23:3] is 0 (R70, R73). -/
def decodeB (w : Word) : Except IllegalEncoding Instr :=
  if brightZeroField w = 0 then .ok (.displayOn (brightField w)) else .error .reservedB

/-- A format N word: the command, if word[23:0] is 0 (R70, R73). -/
def decodeN (i : Instr) (w : Word) : Except IllegalEncoding Instr :=
  if rateField w = 0 then .ok i else .error .reservedN

/-- The command a word stands for, or the reason why it is ILLEGAL_ENCODING (R70 to R74). Total on every word; the
command set has no other length and no mode bit (R74). -/
def decode (w : Word) : Except IllegalEncoding Instr :=
  if opField w = 0x01 then .ok (.setSpeed (rateField w).toNat)
  else if opField w = 0x02 then decodeP .writeRaw w
  else if opField w = 0x03 then decodeP .writeChar w
  else if opField w = 0x04 then decodeP .writeCharWithPoint w
  else if opField w = 0x05 then decodeB w
  else if opField w = 0x06 then decodeN .displayOff w
  else if opField w = 0x07 then decodeN .displayClear w
  else .error .unassignedOp

/-- The OP value of each command (R72). -/
def opOf : Instr → BitVec 8
  | .setSpeed _ => 0x01
  | .writeRaw _ _ => 0x02
  | .writeChar _ _ => 0x03
  | .writeCharWithPoint _ _ => 0x04
  | .displayOn _ => 0x05
  | .displayOff => 0x06
  | .displayClear => 0x07

/-- The low 24 bits of a command's word, by its format (R70): RATE; Z = 0, POS and the low byte; 21 zero bits and
BRIGHT; or zero. A rate is cut to its 24 bits; a well-formed command loses nothing. -/
def operandBits : Instr → BitVec 24
  | .setSpeed rate => BitVec.ofNat 24 rate
  | .writeRaw pos pattern => 0#8 ++ pos ++ pattern
  | .writeChar pos code => 0#8 ++ pos ++ code
  | .writeCharWithPoint pos code => 0#8 ++ pos ++ code
  | .displayOn bright => 0#21 ++ bright
  | .displayOff => 0
  | .displayClear => 0

/-- The command word of a command (R70, R72). -/
def encode (i : Instr) : Word := opOf i ++ operandBits i

/-- One row of spec/opcode_table.json: a word is the row's when `word & mask = value` (R72). -/
structure OpcodeRow where
  mnemonic : String
  mask : Word
  value : Word
  deriving DecidableEq, Repr

/-- The table's seven rows: R72's masks, with `value` the table's match, OP << 24. -/
def opcodeRows : List OpcodeRow :=
  [⟨"SET_SPEED", 0xFF000000, 0x01000000⟩,
   ⟨"WRITE_RAW", 0xFFFF0000, 0x02000000⟩,
   ⟨"WRITE_CHAR", 0xFFFF0000, 0x03000000⟩,
   ⟨"WRITE_CHAR_WITH_POINT", 0xFFFF0000, 0x04000000⟩,
   ⟨"DISPLAY_ON", 0xFFFFFFF8, 0x05000000⟩,
   ⟨"DISPLAY_OFF", 0xFFFFFFFF, 0x06000000⟩,
   ⟨"DISPLAY_CLEAR", 0xFFFFFFFF, 0x07000000⟩]

/-- The word is one of the row's words (R72). -/
def OpcodeRow.covers (r : OpcodeRow) (w : Word) : Bool := w &&& r.mask == r.value

/-- The mnemonic of a command in spec/opcode_table.json (R72). -/
def mnemonicOf : Instr → String
  | .setSpeed _ => "SET_SPEED"
  | .writeRaw _ _ => "WRITE_RAW"
  | .writeChar _ _ => "WRITE_CHAR"
  | .writeCharWithPoint _ _ => "WRITE_CHAR_WITH_POINT"
  | .displayOn _ => "DISPLAY_ON"
  | .displayOff => "DISPLAY_OFF"
  | .displayClear => "DISPLAY_CLEAR"

/-- The command that the table numbers `w` in `nbits` bits: every command is one 32-bit word, defined by bit position
and not by byte address (R54, R74), so the bits above `nbits` are 0 and a number of more than 32 bits is no command
(notes/assumptions/12). -/
def decodeTableWord (nbits w : Nat) : Option Instr :=
  let v := w % 2 ^ nbits
  if v < 2 ^ 32 then (decode (BitVec.ofNat 32 v)).toOption else none

end Sys2Proof
end

