-- ==== Sys2Proof/Config.lean ====
section
/-! DEFINITION. What the spec leaves to the platform: the parameters of rule R7 as one record of plain data, the
free constants that stand for their open values, the free acknowledgment draws, and the defaults that the spec's
decisions D1, D2, D9, D10 and D12 suggest. The constraints on the parameters are in Machine/Params.lean. -/

namespace Sys2Proof

/-- The named parameters of the block (R7, R233). A record of plain data, so that a state can hold the parameters of
the machine it is a state of and every claim over all states is a claim over all parameter values. -/
structure Params where
  /-- GLYPH_ROM: the 31 segment patterns, by glyph index (R25, R135). -/
  glyphRom : Vector Byte 31
  /-- DIGIT_ADDR: the wire address of each display position (R84). -/
  digitAddr : Vector Byte 4
  /-- SYS_CMD_ADDR: the wire address that takes the display-control byte (R84). -/
  sysCmdAddr : Byte
  /-- KEY_READ_ADDR: declared by the source, used by no command (R75, R84). -/
  keyReadAddr : Byte
  /-- DISP_ON_DATA: the control byte of DISPLAY_ON for each brightness (R85). -/
  dispOnData : Vector Byte 8
  /-- DISP_OFF_DATA: the control byte of DISPLAY_OFF (R85). -/
  dispOffData : Byte
  /-- RESET_FULL: the value of FULL after reset (R22). -/
  resetFull : Word
  /-- RESET_HALF: the value of HALF after reset (R22). -/
  resetHalf : Word
  /-- TIME_UNIT: the real length of one delay unit, in nanoseconds. No rule depends on it (R100). -/
  timeUnitNs : Nat
  deriving DecidableEq, Repr, Inhabited

/-- The level the line shows at the n-th acknowledgment sample: `draw()`, a free input bit under no law
(R10, R114; notes/assumptions/3). It has no body, so no proof can see a value of it. -/
opaque Config.draw : Nat → Bool

/-- The platform's parameters before the constraints are imposed (R7; notes/assumptions/4). It has no body. -/
opaque Config.rawParams : Params

/-- The suggested glyph patterns of decision D12 (from general knowledge, not in the source; notes/assumptions/4). -/
def Config.defaultGlyphRom : Vector Byte 31 :=
  #v[0x3F, 0x06, 0x5B, 0x4F, 0x66, 0x6D, 0x7D, 0x07, 0x7F, 0x6F, 0x77, 0x7C, 0x39, 0x5E, 0x79, 0x71,
     0x3D, 0x76, 0x30, 0x1E, 0x38, 0x54, 0x5C, 0x73, 0x67, 0x50, 0x78, 0x3E, 0x40, 0x63, 0x00]

/-- The suggested parameters of decisions D1, D9, D10 and D12, with the timing pair (2, 1) that the spec's example
programs choose (95_test_vectors section 3). Only the tests and the fall-back of `Config.params` use them. -/
def Config.defaults : Params where
  glyphRom := Config.defaultGlyphRom
  digitAddr := #v[0x68, 0x6A, 0x6C, 0x6E]
  sysCmdAddr := 0x48
  keyReadAddr := 0x49
  dispOnData := #v[0x01, 0x11, 0x21, 0x31, 0x41, 0x51, 0x61, 0x71]
  dispOffData := 0x00
  resetFull := 2
  resetHalf := 1
  timeUnitNs := 1000

end Sys2Proof
end

