-- ==== Sys2Proof/Machine/Params.lean ====
section
/-! DEFINITION. The constraints that the spec puts on the platform's parameters (R22, R25, R84, R104), and the
parameters of the machine: any values at all that meet them. -/

namespace Sys2Proof

/-- `p` is the period 1000000 / r of some rate r from 1 (R104): the largest r whose period reaches `p` is
1000000 / p, and `p` is a period exactly when that one gives it. -/
def reachablePeriod (p : Nat) : Bool :=
  decide (1 ≤ p) && decide (p ≤ 1000000) && decide (1000000 / (1000000 / p) = p)

/-- The pair is (p/2, p/4) of a reachable period p of at least 4 (R104). With full = p/2, p is 2·full or 2·full + 1. -/
def reachableTiming (full half : Word) : Bool :=
  [2 * full.toNat, 2 * full.toNat + 1].any fun p =>
    decide (4 ≤ p) && reachablePeriod p && decide (full.toNat = p / 2) && decide (half.toNat = p / 4)

/-- No pattern of the ROM has its point bit set, and index 30 is blank (R25). -/
def Params.romOk (c : Params) : Bool :=
  decide (∀ i : Fin 31, c.glyphRom[i].msb = false) && decide (c.glyphRom[30] = 0)

/-- The four digit addresses differ from each other and from the system-command address (R84). KEY_READ_ADDR may equal
any of them: R84 does not constrain it, and that the model does not either is its choice (notes/assumptions/24). -/
def Params.addressesOk (c : Params) : Bool :=
  decide (∀ p q : Fin 4, c.digitAddr[p] = c.digitAddr[q] → p = q) &&
    decide (∀ p : Fin 4, c.digitAddr[p] ≠ c.sysCmdAddr)

/-- The parameters meet every constraint the spec states (R233). -/
def Params.ok (c : Params) : Bool :=
  c.romOk && c.addressesOk && reachableTiming c.resetFull c.resetHalf

/-- The parameters of the machine: the platform's, whatever they are, so long as they meet the constraints; the
spec's defaults stand in where they do not, so that the constraints can be relied on (notes/assumptions/4). -/
def Config.params : Params := if Config.rawParams.ok then Config.rawParams else Config.defaults

end Sys2Proof
end

