-- ==== Sys2Proof/Machine/State.lean ====
section
/-! DEFINITION. The state of the display engine (10_state R20 to R34), as plain data, with the events and turns it
holds; the reasons a step can stop; and the state right after reset (R230). -/

namespace Sys2Proof.Machine

/-- Which of a frame's two acknowledgment slots a sample belongs to: k = 0 after the address byte, k = 1 after the
data byte (R114). -/
inductive AckSlot where
  | address
  | data
  deriving DecidableEq, Repr

/-- The events of the protocol engine (R110). -/
inductive Event where
  /-- SetClk(v): CLK_OUT <- v. -/
  | setClk (v : Bool)
  /-- SetDio(v): DIO_OUT <- v. -/
  | setDio (v : Bool)
  /-- DioIn: release the data line. -/
  | dioIn
  /-- DioOut: drive the data line. -/
  | dioOut
  /-- Wait(n): n time units pass. -/
  | wait (n : Word)
  /-- Sample(k): read the data line. -/
  | sample (k : AckSlot)
  deriving DecidableEq, Repr

/-- One entry of HISTORY: a performed event, with the bit drawn if it was a Sample (R34, R121). -/
structure Entry where
  event : Event
  drawn : Option Bool
  deriving DecidableEq, Repr

/-- STATUS.CAUSE: why the last command word was rejected (R26, R201). The value 3 is never written, and has no
constructor. -/
inductive Cause where
  /-- 0: not rejected. -/
  | none
  /-- 1: ILLEGAL_ENCODING. -/
  | illegalEncoding
  /-- 2: RATE_ZERO. -/
  | rateZero
  deriving DecidableEq, Repr

/-- The stored fields of STATUS (R26). BUSY is a function of the sequencer and is not stored (R27); the reserved bits
read as 0. -/
structure Status where
  /-- Bit 1. -/
  rej : Bool
  /-- Bits 3:2. -/
  cause : Cause
  /-- Bit 4. -/
  ackValid : Bool
  /-- Bit 5. -/
  ackA : Bool
  /-- Bit 6. -/
  ackD : Bool
  deriving DecidableEq, Repr

/-- The three pin latches (R29). -/
structure Pins where
  /-- CLK_OUT: the level of the clock pin. -/
  clkOut : Bool
  /-- DIO_OUT: the level the data pin drives while it is an output. -/
  dioOut : Bool
  /-- DIO_OE: true when the data pin is an output, false when it is released. -/
  dioOe : Bool
  deriving DecidableEq, Repr

/-- The idle levels, which are also the reset values (R29, R119). -/
def Pins.idle : Pins := ⟨true, true, true⟩

/-- What the world outside the engine does next (R12, R214; notes/assumptions/2). -/
inductive Turn where
  /-- The host writes `data` to the window at a byte offset, with an access of `size` bytes (R32). -/
  | write (offset size : Nat) (data : Word)
  /-- The host reads the window at a byte offset, with an access of `size` bytes (R32). -/
  | read (offset size : Nat)
  /-- The host polls STATUS until BUSY = 0 (R62, R214). -/
  | waitIdle
  /-- The host lets the engine perform one event before its next access (R121). -/
  | engine
  /-- The block is reset (R230, R231). -/
  | reset
  deriving DecidableEq, Repr

/-- The state of the machine. The last three fields, `schedule`, `reply` and `drawCount`, are the model's own and not
the spec's (notes/assumptions/2, 3 and 8). -/
structure State where
  /-- The parameters of this machine: constants that no step writes (R7, R25, R84, R85, R230). -/
  params : Params
  /-- FULL, the full-pulse delay in time units (R21). -/
  full : Word
  /-- HALF, the half-pulse delay in time units (R21). -/
  half : Word
  /-- BUF, the four display cells (R23). -/
  buf : Vector Byte 4
  /-- STATUS, but for BUSY (R26). -/
  status : Status
  /-- CLK_OUT, DIO_OUT and DIO_OE (R29). -/
  pins : Pins
  /-- SEQ_EVENTS, the event list of the current command (R30). -/
  seqEvents : List Event
  /-- SEQ_PC, the index of the next event (R30). -/
  seqPc : Nat
  /-- FAULTED (R31). -/
  faulted : Bool
  /-- HISTORY, oldest first (R34). -/
  history : List Entry
  /-- The turns that the outside world takes next, oldest first; the engine moves when none is left. -/
  schedule : List Turn
  /-- The word the last read turn returned; the reads of a polling turn are not kept (notes/assumptions/8). -/
  reply : Option Word
  /-- How many acknowledgment bits have been drawn. -/
  drawCount : Nat
  deriving DecidableEq, Repr

/-- Why a step stops with a fault. -/
inductive Fault where
  /-- HOST_OVERRUN: raised by every step of any agent once FAULTED = 1, which a CMD write while BUSY = 1 sets (R203).
  Safe: what the hardware does there the spec leaves open (U2), and nothing can be proved of a next state. -/
  | hostOverrun
  deriving DecidableEq, Repr

/-- Why the model refuses a step. -/
inductive Refusal where
  /-- Raised by a dispatch arm whose command has no meaning yet. Safe: nothing is claimed of it. -/
  | notModelled (mnemonic : String)
  /-- Raised by a host access that is not one aligned 32-bit word (R32, R56). Safe: the spec says that the model
  refuses it. -/
  | notAnAlignedWord
  /-- Raised by a host access at an offset with no register (R32, R56). Safe: as above. -/
  | unmappedOffset
  /-- Raised by a host read of CMD, which is write only (R32). Safe: as above. -/
  | readOfCmd
  deriving DecidableEq, Repr

/-- The machine right after the reset at first power-up (R230): HISTORY is empty and FAULTED is 0 then (10_state,
summary). The model's own fields start empty (notes/assumptions/2, 3 and 8). -/
def State.reset : State where
  params := Config.params
  full := Config.params.resetFull
  half := Config.params.resetHalf
  buf := #v[0, 0, 0, 0]
  status := ⟨false, .none, false, false, false⟩
  pins := Pins.idle
  seqEvents := []
  seqPc := 0
  faulted := false
  history := []
  schedule := []
  reply := none
  drawCount := 0

end Sys2Proof.Machine
end

