-- ==== Sys2Proof/Machine/Flags.lean ====
section
/-! DEFINITION. Everything the spec computes in STATUS (R26 to R28): the word the host reads, and the three events
that write its stored fields: acceptance, rejection and a Sample. -/

namespace Sys2Proof.Machine

/-- BUSY = (SEQ_PC < length(SEQ_EVENTS)) (R30). -/
def State.busy (s : State) : Bool := decide (s.seqPc < s.seqEvents.length)

/-- The two bits of STATUS.CAUSE (R26). -/
def Cause.code : Cause → BitVec 2
  | .none => 0
  | .illegalEncoding => 1
  | .rateZero => 2

/-- Accepting a command sets REJ = 0 and CAUSE = 0 and leaves the ACK bits (R27). -/
def Status.accepted (t : Status) : Status := { t with rej := false, cause := .none }

/-- Rejecting a command sets REJ = 1 and CAUSE to the cause and leaves the ACK bits (R27, R201). -/
def Status.rejected (c : Cause) (t : Status) : Status := { t with rej := true, cause := c }

/-- A Sample: k = 0 writes ACK_A and clears ACK_VALID, k = 1 writes ACK_D and sets ACK_VALID (R110). -/
def Status.sampled (k : AckSlot) (d : Bool) (t : Status) : Status :=
  match k with
  | .address => { t with ackA := d, ackValid := false }
  | .data => { t with ackD := d, ackValid := true }

/-- The STATUS word (R26): bit 0 BUSY, 1 REJ, 3:2 CAUSE, 4 ACK_VALID, 5 ACK_A, 6 ACK_D, the rest 0. -/
def State.statusWord (s : State) : Word :=
  0#25 ++ BitVec.ofBool s.status.ackD ++ BitVec.ofBool s.status.ackA ++ BitVec.ofBool s.status.ackValid ++
    s.status.cause.code ++ BitVec.ofBool s.status.rej ++ BitVec.ofBool s.busy

end Sys2Proof.Machine
end

