-- ==== Sys2Proof/Machine/Operands.lean ====
section
/-! DEFINITION. The operand forms of the commands: the position mask (R55), the decimal-point flag (R79), and the
parameter a brightness or a position selects (R84, R85). -/

namespace Sys2Proof.Machine

/-- The cell a position operand names: `p = POS[1:0]` (R55). -/
def cellIndex (pos : Byte) : Fin 4 := (pos.extractLsb' 0 2).toFin

/-- The pattern with its decimal-point flag, bit 7, set (R79, R152, R153). -/
def withPoint (v : Byte) : Byte := v ||| 0x80

/-- The decimal-point character '.', 0x2E (R136, decision D13). -/
def pointChar : Byte := 0x2E

/-- DIGIT_ADDR[p] (R84). -/
def State.digitAddr (s : State) (p : Fin 4) : Byte := s.params.digitAddr[p]

/-- DISP_ON_DATA(b) (R85). -/
def State.dispOnData (s : State) (bright : BitVec 3) : Byte := s.params.dispOnData[bright.toFin]

end Sys2Proof.Machine
end

