-- ==== Sys2Proof/Machine/Ops.lean ====
section
/-! DEFINITION. The named operations over the state: one update per field, reading and writing BUF, accepting and
rejecting a command (R149, R201), the overrun (R203) and reset (R230, R231). -/

namespace Sys2Proof.Machine

/-- What a step of the machine answers. -/
abbrev Result := Host.Outcome State Fault Refusal

/-- FULL <- full; HALF <- half. -/
def State.setTiming (full half : Word) (s : State) : State := { s with full := full, half := half }

/-- BUF <- b. -/
def State.setBuf (b : Vector Byte 4) (s : State) : State := { s with buf := b }

/-- The stored fields of STATUS <- t. -/
def State.setStatus (t : Status) (s : State) : State := { s with status := t }

/-- The pin latches <- p. -/
def State.setPins (p : Pins) (s : State) : State := { s with pins := p }

/-- SEQ_EVENTS <- l; SEQ_PC <- 0 (R30). -/
def State.loadEvents (l : List Event) (s : State) : State := { s with seqEvents := l, seqPc := 0 }

/-- SEQ_PC <- SEQ_PC + 1 (R121). -/
def State.advance (s : State) : State := { s with seqPc := s.seqPc + 1 }

/-- FAULTED <- 1 (R203). -/
def State.setFaulted (s : State) : State := { s with faulted := true }

/-- HISTORY <- HISTORY ++ [e] (R121). -/
def State.record (e : Entry) (s : State) : State := { s with history := s.history ++ [e] }

/-- The turns still to take <- l. -/
def State.setSchedule (l : List Turn) (s : State) : State := { s with schedule := l }

/-- The word of the last host read <- w. -/
def State.setReply (w : Word) (s : State) : State := { s with reply := some w }

/-- One more acknowledgment bit has been drawn. -/
def State.countDraw (s : State) : State := { s with drawCount := s.drawCount + 1 }

/-- BUF[p] (R10, R23). -/
def State.cell (p : Fin 4) (s : State) : Byte := s.buf[p]

/-- BUF[p] <- v (R10, R23). -/
def State.writeCell (p : Fin 4) (v : Byte) (s : State) : State := s.setBuf (s.buf.set p v)

/-- BUF[p] <- 0x00 for p in 0, 1, 2, 3 (R156). -/
def State.clearCells (s : State) : State := s.setBuf (Vector.replicate 4 0)

/-- A command is accepted with event list `l` (R149): REJ and CAUSE are cleared, and the sequencer is loaded. -/
def State.accept (l : List Event) (s : State) : State := (s.setStatus s.status.accepted).loadEvents l

/-- A command word is rejected with a cause: nothing changes but REJ and CAUSE (R201). It is the block's only
exception; it saves nothing, moves nothing, and needs no return (R206, R207). -/
def State.reject (c : Cause) (s : State) : State := s.setStatus (s.status.rejected c)

/-- HOST_OVERRUN sets FAULTED and changes nothing else (R203). -/
def State.overrun (s : State) : State := s.setFaulted

/-- No step of any agent is enabled once FAULTED = 1 (R203; notes/assumptions/1). -/
def whenEnabled (s : State) (r : Result) : Result := if s.faulted then .fault .hostOverrun else r

/-- The first check of every CMD write, before the word is looked at (R149, R202): while BUSY = 1 the write is a
HOST_OVERRUN, and otherwise the write has result `r`. -/
def onCmdWrite (s : State) (r : Result) : Result :=
  whenEnabled s (if s.busy then .next s.overrun else r)

/-- Reset (R230): BUF, FULL, HALF, STATUS, the latches and the sequencer take their reset values, whatever command was
in progress (R231). The parameters, FAULTED and HISTORY are unchanged (R31, R34), and so are the model's own fields. -/
def State.applyReset (s : State) : State :=
  ((((s.setTiming s.params.resetFull s.params.resetHalf).clearCells).setStatus
    ⟨false, .none, false, false, false⟩).setPins Pins.idle).loadEvents []

end Sys2Proof.Machine
end

