-- ==== Sys2Proof/Machine/Engine.lean ====
section
/-! DEFINITION. The protocol engine (41_protocol_engine): the event lists of its sequences, the frame, and the
sequencer step. In every sequence `full` and `half` are FULL and HALF as they stand when the command is accepted. -/

namespace Sys2Proof.Machine

/-- IDLE, the idle or stop condition (R111). -/
def idleEvents (full : Word) : List Event := [.setClk true, .wait full, .setDio true, .wait full]

/-- START, the start condition (R112). -/
def startEvents (full : Word) : List Event := [.setDio false, .wait full, .setClk false]

/-- BIT(v), one data bit (R113). -/
def bitEvents (full half : Word) (v : Bool) : List Event :=
  [.wait half, .setDio v, .wait half, .setClk true, .wait full, .setClk false]

/-- ACK(k), the acknowledgment slot (R114). -/
def ackEvents (full half : Word) (k : AckSlot) : List Event :=
  [.dioIn, .wait full, .setClk true, .wait full, .sample k, .setClk false, .dioOut, .setDio false, .wait half]

/-- The bits of a byte in the order they are sent, the most significant first (R52, R115). -/
def bitsMsbFirst (x : Byte) : List Bool := [7, 6, 5, 4, 3, 2, 1, 0].map x.getLsbD

/-- BYTE(x, k): eight bits and the acknowledgment slot (R115). -/
def byteEvents (full half : Word) (x : Byte) (k : AckSlot) : List Event :=
  (bitsMsbFirst x).flatMap (bitEvents full half) ++ ackEvents full half k

/-- FRAME(address, value), the only way onto the wire (R117). -/
def frame (full half : Word) (address value : Byte) : List Event :=
  startEvents full ++ byteEvents full half address .address ++ byteEvents full half value .data ++ idleEvents full

/-- The frame a command sends in state `s`, with the state's FULL and HALF (R110, 43_display_buffer preamble). -/
def State.frameTo (s : State) (address value : Byte) : List Event := frame s.full s.half address value

/-- The effect of an event on the latches (R110). -/
def Pins.after (p : Pins) : Event → Pins
  | .setClk v => { p with clkOut := v }
  | .setDio v => { p with dioOut := v }
  | .dioIn => { p with dioOe := false }
  | .dioOut => { p with dioOe := true }
  | .wait _ => p
  | .sample _ => p

/-- The bit an event draws: a Sample takes the next free draw, every other event none (R110, R121). -/
def State.drawFor (s : State) : Event → Option Bool
  | .sample _ => some (Config.draw s.drawCount)
  | .setClk _ => none
  | .setDio _ => none
  | .dioIn => none
  | .dioOut => none
  | .wait _ => none

/-- Performing an event (R110): a Sample writes STATUS.ACK_* from its draw, and every other event the latches. -/
def State.perform (e : Event) (s : State) : State :=
  match e with
  | .sample k => (s.setStatus (s.status.sampled k (Config.draw s.drawCount))).countDraw
  | .setClk v => s.setPins (s.pins.after (.setClk v))
  | .setDio v => s.setPins (s.pins.after (.setDio v))
  | .dioIn => s.setPins (s.pins.after .dioIn)
  | .dioOut => s.setPins (s.pins.after .dioOut)
  | .wait _ => s

/-- The engine performs event `e`, records it with its draw, and goes on to the next (R121). -/
def State.performNext (e : Event) (s : State) : State :=
  ((s.perform e).record ⟨e, s.drawFor e⟩).advance

/-- One turn of the engine (R121): the event at SEQ_PC, if there is one. With BUSY = 0 the block performs no step, and
nothing changes (R213; notes/assumptions/2). -/
def engineTurn (s : State) : Result :=
  match s.seqEvents[s.seqPc]? with
  | some e => .next (s.performNext e)
  | none => .next s

/-- The time units an event lasts (R110, R239). No step depends on it. -/
def Event.units : Event → Nat
  | .wait n => n.toNat
  | .setClk _ => 0
  | .setDio _ => 0
  | .dioIn => 0
  | .dioOut => 0
  | .sample _ => 0

/-- The time units a sequence lasts (R239). -/
def duration (l : List Event) : Nat := (l.map Event.units).sum

/-- The phases of a frame (R118). -/
inductive Phase where
  | start
  | bitShift (k : AckSlot) (bit : Nat)
  | ackSample (k : AckSlot)
  | idle
  deriving DecidableEq, Repr

/-- The phase of the event with index `j` of a frame, and the index of that event within its sequence (R118). -/
def phaseOf (j : Nat) : Option (Phase × Nat) :=
  if j ≤ 2 then some (.start, j)
  else if j ≤ 50 then some (.bitShift .address (7 - (j - 3) / 6), (j - 3) % 6)
  else if j ≤ 59 then some (.ackSample .address, j - 51)
  else if j ≤ 107 then some (.bitShift .data (7 - (j - 60) / 6), (j - 60) % 6)
  else if j ≤ 116 then some (.ackSample .data, j - 108)
  else if j ≤ 120 then some (.idle, j - 117)
  else none

/-- The events of the sequence that a phase of FRAME(address, value) stands for (R117, R118). -/
def phaseEvents (full half : Word) (address value : Byte) : Phase → List Event
  | .start => startEvents full
  | .bitShift .address bit => bitEvents full half (address.getLsbD bit)
  | .bitShift .data bit => bitEvents full half (value.getLsbD bit)
  | .ackSample k => ackEvents full half k
  | .idle => idleEvents full

end Sys2Proof.Machine
end

