-- ==== Sys2Proof/Machine/Glyph.lean ====
section
/-! DEFINITION. The glyph encoder and the glyph ROM (42_glyph_encoder). Character literals are ASCII (decision D13). -/

namespace Sys2Proof.Machine

/-- The fold of ENCODE's rule 3: a code above '@' (0x40) loses its bit 5 (R131). -/
def foldCase (code : Byte) : Byte := if 0x40 < code.toNat then code &&& ~~~(0x20 : Byte) else code

/-- ENCODE's rules 4 to 6, on the folded code (R131). -/
def encodeFolded (c : Nat) : Fin 31 :=
  if h : 0x41 ≤ c ∧ c ≤ 0x4A then ⟨c - 0x41 + 10, by omega⟩
  else if c = 0x4C then 20
  else if h : 0x4E ≤ c ∧ c ≤ 0x52 then ⟨21 + (c - 0x4E), by omega⟩
  else if c = 0x54 then 26
  else if c = 0x55 then 27
  else if c = 0x2D then 28
  else if c = 0x2A then 29
  else 30

/-- ENCODE: character code to glyph index, in the source's order of checks (R130, R131). Total, so a ROM read is never
out of range (R56). -/
def glyphIndex (code : Byte) : Fin 31 :=
  if h : code.toNat < 30 then ⟨code.toNat, by omega⟩
  else if h : 0x30 ≤ code.toNat ∧ code.toNat ≤ 0x39 then ⟨code.toNat - 0x30, by omega⟩
  else encodeFolded (foldCase code).toNat

/-- The code lies in lo..hi. -/
def within (lo hi : Nat) (code : Byte) : Bool := decide (lo ≤ code.toNat) && decide (code.toNat ≤ hi)

/-- ENCODE as the order-independent table of R132: each row's ranges start at the glyph index `first`. -/
def glyphTable : List (Nat × List (Nat × Nat)) :=
  [(0, [(0x00, 0x09), (0x30, 0x39)]),
   (10, [(0x0A, 0x13), (0x41, 0x4A), (0x61, 0x6A)]),
   (20, [(0x14, 0x14), (0x4C, 0x4C), (0x6C, 0x6C)]),
   (21, [(0x15, 0x19), (0x4E, 0x52), (0x6E, 0x72)]),
   (26, [(0x1A, 0x1A), (0x54, 0x54), (0x74, 0x74)]),
   (27, [(0x1B, 0x1B), (0x55, 0x55), (0x75, 0x75)]),
   (28, [(0x1C, 0x1C), (0x2D, 0x2D)]),
   (29, [(0x1D, 0x1D), (0x2A, 0x2A)])]

/-- The codes of R132's last row, which give the blank sentinel 30. -/
def blankRanges : List (Nat × Nat) :=
  [(0x1E, 0x29), (0x2B, 0x2C), (0x2E, 0x2F), (0x3A, 0x40), (0x4B, 0x4B), (0x4D, 0x4D), (0x53, 0x53),
   (0x56, 0x60), (0x6B, 0x6B), (0x6D, 0x6D), (0x73, 0x73), (0x76, 0xFF)]

/-- Every glyph index that a row of R132 pairs with the code, in row order: the ranges are disjoint and exhaustive when
each code has exactly one. -/
def glyphsByTable (code : Byte) : List Nat :=
  (glyphTable.flatMap fun row =>
    (row.2.filter fun r => within r.1 r.2 code).map fun r => row.1 + (code.toNat - r.1)) ++
  ((blankRanges.filter fun r => within r.1 r.2 code).map fun _ => 30)

/-- GLYPH_ROM[i] (R25, R10). -/
def State.romRead (s : State) (i : Fin 31) : Byte := s.params.glyphRom[i]

/-- PATTERN(code) = GLYPH_ROM[ENCODE(code)] (R135). -/
def State.patternOf (s : State) (code : Byte) : Byte := s.romRead (glyphIndex code)

end Sys2Proof.Machine
end

