-- ==== Sys2Proof/Machine/Buffer.lean ====
section
/-! DEFINITION. The meanings of the commands that write BUF: WRITE_RAW, WRITE_CHAR, WRITE_CHAR_WITH_POINT and
DISPLAY_CLEAR (43_display_buffer R150 to R153 and R156). -/

namespace Sys2Proof.Machine

/-- BUF[p] <- v, and the command is accepted with FRAME(DIGIT_ADDR[p], v): the common end of R150, R151 and R153. The
write happens at acceptance, before the first event (R149). -/
def State.storeAndSend (p : Fin 4) (v : Byte) (s : State) : State :=
  (s.writeCell p v).accept (s.frameTo (s.digitAddr p) v)

/-- The byte WRITE_CHAR stores: the old cell with its point set for '.' (R152), and the glyph's pattern for every other
code (R151). -/
def State.charByte (s : State) (p : Fin 4) (code : Byte) : Byte :=
  if code = pointChar then withPoint (s.cell p) else s.patternOf code

/-- The four zero frames of DISPLAY_CLEAR, in position order (R61(e), R156). -/
def State.clearFrames (s : State) : List Event :=
  s.frameTo (s.digitAddr 0) 0 ++ s.frameTo (s.digitAddr 1) 0 ++ s.frameTo (s.digitAddr 2) 0 ++
    s.frameTo (s.digitAddr 3) 0

/-- WRITE_RAW: store a raw pattern and transmit it; the encoder is bypassed (R150). -/
def execWriteRaw (pos pattern : Byte) (s : State) : Result :=
  onCmdWrite s (.next (s.storeAndSend (cellIndex pos) pattern))

/-- WRITE_CHAR: encode a character and store it, or add a decimal point (R151, R152). -/
def execWriteChar (pos code : Byte) (s : State) : Result :=
  onCmdWrite s (.next (s.storeAndSend (cellIndex pos) (s.charByte (cellIndex pos) code)))

/-- WRITE_CHAR_WITH_POINT: encode a character, set its point, store and transmit; '.' is not special (R153). -/
def execWriteCharWithPoint (pos code : Byte) (s : State) : Result :=
  onCmdWrite s (.next (s.storeAndSend (cellIndex pos) (withPoint (s.patternOf code))))

/-- DISPLAY_CLEAR: zero the buffer and blank every digit (R156). -/
def execDisplayClear (s : State) : Result :=
  onCmdWrite s (.next (s.clearCells.accept s.clearFrames))

end Sys2Proof.Machine
end

