-- ==== Sys2Proof/Machine/Display.lean ====
section
/-! DEFINITION. The meanings of DISPLAY_ON and DISPLAY_OFF (43_display_buffer R154, R155). The block keeps no copy of the
on/off state or the brightness (decision D26). -/

namespace Sys2Proof.Machine

/-- The command is accepted with FRAME(SYS_CMD_ADDR, v); BUF is unchanged (R154, R155). -/
def State.sendControl (v : Byte) (s : State) : State := s.accept (s.frameTo s.params.sysCmdAddr v)

/-- DISPLAY_ON: switch the display on at a brightness (R154). -/
def execDisplayOn (bright : BitVec 3) (s : State) : Result :=
  onCmdWrite s (.next (s.sendControl (s.dispOnData bright)))

/-- DISPLAY_OFF: switch the display off (R155). -/
def execDisplayOff (s : State) : Result :=
  onCmdWrite s (.next (s.sendControl s.params.dispOffData))

end Sys2Proof.Machine
end

