-- ==== Sys2Proof/Machine/Speed.lean ====
section
/-! DEFINITION. The meaning of SET_SPEED (40_timing R100 to R104). -/

namespace Sys2Proof.Machine

/-- `period <- 1000000 / RATE`, truncating (R101). -/
def periodOf (rate : Nat) : Nat := 1000000 / rate

/-- FULL for a period: half of it, or the clamp 2 below 4 (R101). -/
def fullOf (period : Nat) : Word := if 4 ≤ period then BitVec.ofNat 32 (period / 2) else 2

/-- HALF for a period: a quarter of it, or the clamp 1 below 4 (R101). -/
def halfOf (period : Nat) : Word := if 4 ≤ period then BitVec.ofNat 32 (period / 4) else 1

/-- SET_SPEED (R101): a rate of 0 is rejected with RATE_ZERO and nothing else changes (R102); any other sets FULL and
HALF and loads an empty event list, so that BUSY stays 0. -/
def execSetSpeed (rate : Nat) (s : State) : Result :=
  onCmdWrite s
    (if rate = 0 then .next (s.reject .rateZero)
     else .next ((s.setTiming (fullOf (periodOf rate)) (halfOf (periodOf rate))).accept []))

end Sys2Proof.Machine
end

