-- ==== Sys2Proof/Machine/Dispatch.lean ====
section
/-! DEFINITION. One arm per command: the meaning of each row of spec/opcode_table.json. -/

namespace Sys2Proof.Machine

def exec (i : Instr) (s : State) : Host.Outcome State Fault Refusal :=
  match i with
  | .setSpeed rate => Sys2Proof.Machine.execSetSpeed rate s
  | .writeRaw pos pattern => Sys2Proof.Machine.execWriteRaw pos pattern s
  | .writeChar pos code => Sys2Proof.Machine.execWriteChar pos code s
  | .writeCharWithPoint pos code => Sys2Proof.Machine.execWriteCharWithPoint pos code s
  | .displayOn bright => Sys2Proof.Machine.execDisplayOn bright s
  | .displayOff => Sys2Proof.Machine.execDisplayOff s
  | .displayClear => Sys2Proof.Machine.execDisplayClear s

end Sys2Proof.Machine
end

