-- ==== Sys2Proof/Machine/Window.lean ====
section
/-! DEFINITION. The host's side: the register window (R32, R53), the CMD write that decodes and runs a command (R149),
and one turn of the schedule (R12, R121, R214). -/

namespace Sys2Proof.Machine

/-- The six registers of the window (R32). -/
inductive HostReg where
  | cmd
  | status
  | full
  | half
  | bufWord
  | pins
  deriving DecidableEq, Repr

/-- The register at a byte offset (R32). -/
def HostReg.at? (offset : Nat) : Option HostReg :=
  if offset = 0x00 then some .cmd
  else if offset = 0x04 then some .status
  else if offset = 0x08 then some .full
  else if offset = 0x0C then some .half
  else if offset = 0x10 then some .bufWord
  else if offset = 0x14 then some .pins
  else none

/-- BUF_WORD: BUF[i] in bits [8i+7:8i] (R32, R53). -/
def State.bufWord (s : State) : Word := s.cell 3 ++ s.cell 2 ++ s.cell 1 ++ s.cell 0

/-- PINS: bit 0 CLK_OUT, bit 1 DIO_OUT, bit 2 DIO_OE, the rest 0 (R32). -/
def State.pinsWord (s : State) : Word :=
  0#29 ++ BitVec.ofBool s.pins.dioOe ++ BitVec.ofBool s.pins.dioOut ++ BitVec.ofBool s.pins.clkOut

/-- The content of a readable register; CMD is write only (R32). -/
def State.readReg (s : State) : HostReg → Option Word
  | .cmd => none
  | .status => some s.statusWord
  | .full => some s.full
  | .half => some s.half
  | .bufWord => some s.bufWord
  | .pins => some s.pinsWord

/-- A host write of CMD (R149): the overrun check first, then decoding, then the command; a word with no command is
rejected with ILLEGAL_ENCODING (R73, R201, R202). -/
def submit (w : Word) (s : State) : Result :=
  onCmdWrite s
    (match decode w with
     | .ok i => exec i s
     | .error _ => .next (s.reject .illegalEncoding))

/-- The access is one aligned 32-bit word (R32, R56). -/
def alignedWord (offset size : Nat) : Bool := decide (size = 4) && decide (offset % 4 = 0)

/-- A host write (R32): CMD submits a command, and a read-only register is left as it is. Every other access is refused
(R56). -/
def hostWrite (offset size : Nat) (data : Word) (s : State) : Result :=
  if alignedWord offset size then
    match HostReg.at? offset with
    | some .cmd => submit data s
    | some .status | some .full | some .half | some .bufWord | some .pins => .next s
    | none => .refused .unmappedOffset
  else .refused .notAnAlignedWord

/-- A host read (R32): the register's content, with no side effect on the block (R58). -/
def hostRead (offset size : Nat) (s : State) : Result :=
  if alignedWord offset size then
    match HostReg.at? offset with
    | some r =>
      match s.readReg r with
      | some w => .next (s.setReply w)
      | none => .refused .readOfCmd
    | none => .refused .unmappedOffset
  else .refused .notAnAlignedWord

/-- One turn, already taken off the schedule of `s` (R12, R214; notes/assumptions/2). A polling host stays where it is
while BUSY = 1, and the engine moves. Its turn stands for all the STATUS reads of the wait (R62), and that none of their
words goes to `reply`, which only a read turn writes, is the model's choice (notes/assumptions/8). Reset is no agent's
step, and comes through when FAULTED = 1 (R31; notes/assumptions/9). -/
def takeTurn (t : Turn) (s : State) : Result :=
  match t with
  | .reset => .next s.applyReset
  | .write offset size data => whenEnabled s (hostWrite offset size data s)
  | .read offset size => whenEnabled s (hostRead offset size s)
  | .waitIdle =>
    whenEnabled s (if s.busy then engineTurn (s.setSchedule (.waitIdle :: s.schedule)) else .next s)
  | .engine => whenEnabled s (engineTurn s)

/-- With no turn left the engine moves, if it has an event to perform. -/
def idleTurn (s : State) : Result := whenEnabled s (engineTurn s)

/-- The word a table word stands for: its low `nbits` bits, the bits above them 0. -/
def tableWord (nbits w : Nat) : Word := BitVec.ofNat 32 (w % 2 ^ nbits)

end Sys2Proof.Machine
end

