-- ==== Sys2Proof/Machine/Step.lean ====
section
/-! DEFINITION. One step of the machine, and how a command comes to be its next one. -/

namespace Sys2Proof.Machine

/-- One step: the next turn of the schedule, or, with none left, the engine's (R12, R121; notes/assumptions/2). -/
def step (s : State) : Host.Outcome State Fault Refusal :=
  match s.schedule with
  | [] => idleTurn s
  | t :: rest => takeTurn t (s.setSchedule rest)

/-- The host's next act is to write the word to CMD: the block fetches nothing (R50, R54), so a command comes to it as
a host write (notes/assumptions/7). -/
def State.withFetchWord (s : State) (nbits w : Nat) : State :=
  s.setSchedule (.write 0x00 4 (tableWord nbits w) :: s.schedule)

end Sys2Proof.Machine
end

