-- ==== Sys2Proof/Safety.lean ====
section
/-! DEFINITION. The terms that claims are made in: the events still to perform, the invariants of the line, of the
timing pair and of STATUS, a receiver that reads the wire, a host that keeps its duty, and a state with its
acknowledgment bits left out. Nothing of the machine depends on this file. -/

namespace Sys2Proof.Machine

/-- The events of the current command that are not yet performed (R14). -/
def State.remaining (s : State) : List Event := s.seqEvents.drop s.seqPc

/-- The engine performs a list of events, one after the other (R121). -/
def State.performAll (l : List Event) (s : State) : State := l.foldl (fun s e => s.performNext e) s

/-- The latches after a list of events (R110). -/
def Pins.afterAll (p : Pins) (l : List Event) : Pins := l.foldl Pins.after p

/-- Every SetDio of the list comes while DIO_OE = 1 and every Sample while DIO_OE = 0, starting from the latches `p`
(R120). -/
def drivesInTurn : Pins → List Event → Bool
  | _, [] => true
  | p, .setDio v :: rest => p.dioOe && drivesInTurn (p.after (.setDio v)) rest
  | p, .sample k :: rest => !p.dioOe && drivesInTurn (p.after (.sample k)) rest
  | p, .setClk v :: rest => drivesInTurn (p.after (.setClk v)) rest
  | p, .dioIn :: rest => drivesInTurn (p.after .dioIn) rest
  | p, .dioOut :: rest => drivesInTurn (p.after .dioOut) rest
  | p, .wait n :: rest => drivesInTurn (p.after (.wait n)) rest

/-- The line invariant behind R119 and R120: what is left of the current command leaves the lines idle, and drives the
data line only while it is an output. With BUSY = 0 nothing is left, so the lines are idle. -/
def State.LineInv (s : State) : Prop :=
  s.pins.afterAll s.remaining = Pins.idle ∧ drivesInTurn s.pins s.remaining = true

/-- The timing pair is one that SET_SPEED can produce (R21, R104). -/
def State.TimingInv (s : State) : Prop := reachableTiming s.full s.half = true

/-- REJ = 1 exactly when CAUSE names a cause (R26, R27, R201). -/
def State.StatusInv (s : State) : Prop := s.status.rej = decide (s.status.cause ≠ .none)

/-- SEQ_PC never passes the end of the event list (R30). -/
def State.SequencerInv (s : State) : Prop := s.seqPc ≤ s.seqEvents.length

/-- What every state of the block meets, whatever command runs: its parameters meet their constraints, and the timing
pair, STATUS and the sequencer are as the rules leave them. -/
structure State.RegisterInv (s : State) : Prop where
  params : s.params.ok = true
  timing : s.TimingInv
  status : s.StatusInv
  sequencer : s.SequencerInv

/-- Everything but BUF, REJ, CAUSE and the sequencer is the same: what a command that is accepted leaves alone, the
timing registers apart for SET_SPEED (R149). -/
structure KeepsTheRest (s t : State) : Prop where
  params : t.params = s.params
  full : t.full = s.full
  half : t.half = s.half
  ackValid : t.status.ackValid = s.status.ackValid
  ackA : t.status.ackA = s.status.ackA
  ackD : t.status.ackD = s.status.ackD
  pins : t.pins = s.pins
  faulted : t.faulted = s.faulted
  history : t.history = s.history
  schedule : t.schedule = s.schedule
  reply : t.reply = s.reply
  drawCount : t.drawCount = s.drawCount

/-- The command was accepted with event list `l`: REJ and CAUSE are cleared, the sequencer is at its start, and BUSY
is 1 exactly when there is an event to perform (R27, R149). -/
structure AcceptedWith (l : List Event) (t : State) : Prop where
  rej : t.status.rej = false
  cause : t.status.cause = .none
  events : t.seqEvents = l
  pc : t.seqPc = 0
  busy : t.busy = decide (l ≠ [])

/-- The cell of a position operand, by arithmetic: the position modulo 4 (R55). -/
def positionOf (pos : Byte) : Fin 4 := ⟨pos.toNat % 4, Nat.mod_lt _ (by decide)⟩

/-- The frames of a command, as (address, data), in the order it sends them (R150 to R156). -/
def State.framesOf (s : State) : Instr → List (Byte × Byte)
  | .setSpeed _ => []
  | .writeRaw pos pattern => [(s.params.digitAddr[positionOf pos], pattern)]
  | .writeChar pos code =>
    [(s.params.digitAddr[positionOf pos],
      if code = 0x2E then s.cell (positionOf pos) ||| 0x80 else s.params.glyphRom[glyphIndex code])]
  | .writeCharWithPoint pos code =>
    [(s.params.digitAddr[positionOf pos], s.params.glyphRom[glyphIndex code] ||| 0x80)]
  | .displayOn bright => [(s.params.sysCmdAddr, s.params.dispOnData[bright.toFin])]
  | .displayOff => [(s.params.sysCmdAddr, s.params.dispOffData)]
  | .displayClear =>
    [(s.params.digitAddr[0], 0x00), (s.params.digitAddr[1], 0x00), (s.params.digitAddr[2], 0x00),
     (s.params.digitAddr[3], 0x00)]

/-- A receiver on the far end of the wires, as far as the block relies on one (R77, R210): it follows the levels, takes
a data bit at each rise of CLK, and sees the start and idle conditions. It is a reader of the block's events for the
claims below, and no model of the TM1650 (notes/assumptions/13). -/
structure Receiver where
  clk : Bool
  dio : Bool
  oe : Bool
  receiving : Bool
  bits : List Bool
  frames : List (Byte × Byte)
  deriving DecidableEq, Repr

/-- The receiver of an idle line that has seen no frame yet. -/
def Receiver.fresh : Receiver := ⟨true, true, true, false, [], []⟩

/-- The byte whose bits came most significant first (R52). -/
def byteOfBits (l : List Bool) : Byte := l.foldl (fun b v => (b <<< 1) ||| (BitVec.ofBool v).setWidth 8) 0

/-- The frame of the bits between a start and an idle condition: eight address bits, an acknowledgment, eight data
bits, an acknowledgment, and the clock's rise in the idle condition (R77, R78, R111). -/
def frameOfBits (l : List Bool) : List (Byte × Byte) :=
  if l.length = 19 then [(byteOfBits (l.take 8), byteOfBits ((l.drop 9).take 8))] else []

/-- What the receiver makes of one event: a fall of DIO while CLK is high starts a frame (R112), a rise of DIO while CLK
is high ends it (R111), and a rise of CLK in between gives a bit (R77). -/
def Receiver.see (o : Receiver) : Event → Receiver
  | .setClk v =>
    if v && !o.clk && o.receiving then { o with clk := v, bits := o.bits ++ [o.dio || !o.oe] }
    else { o with clk := v }
  | .setDio v =>
    if o.clk && o.oe && o.dio && !v then { o with dio := v, receiving := true, bits := [] }
    else if o.clk && o.oe && !o.dio && v && o.receiving then
      { o with dio := v, receiving := false, bits := [], frames := o.frames ++ frameOfBits o.bits }
    else { o with dio := v }
  | .dioIn => { o with oe := false }
  | .dioOut => { o with oe := true }
  | .wait _ => o
  | .sample _ => o

/-- The receiver sees a list of events. -/
def Receiver.seeAll (o : Receiver) (l : List Event) : Receiver := l.foldl Receiver.see o

/-- The data byte of the last frame to an address, if there was one. -/
def Receiver.lastTo (o : Receiver) (address : Byte) : Option Byte :=
  ((o.frames.filter fun f => f.1 == address).getLast?).map Prod.snd

/-- What the receiver has seen once the machine has stepped from `s` to `t`: the events that HISTORY gained, and
nothing from before a reset (R24, R123). The spec leaves the peripheral's state open where a reset cuts a frame short
(R231, U4); that the receiver starts afresh there, not receiving and with no bit kept, is the model's choice
(notes/assumptions/25). -/
def Receiver.watch (o : Receiver) (s t : State) : Receiver :=
  match s.schedule with
  | .reset :: _ => Receiver.fresh
  | .write _ _ _ :: _ | .read _ _ :: _ | .waitIdle :: _ | .engine :: _ | [] =>
    o.seeAll ((t.history.drop s.history.length).map Entry.event)

/-- `k` steps of the machine with the receiver watching; none if it stops on the way. -/
def watchedRun : Nat → Receiver → State → Option (Receiver × State)
  | 0, o, s => some (o, s)
  | k + 1, o, s =>
    match step s with
    | .next t => watchedRun k (o.watch s t) t
    | .fault _ => none
    | .refused _ => none

/-- The buffer invariant of R24, made to hold in every state: once the current command has run to its end, the line is
idle and every cell whose address has had a frame holds the data byte of the last one. -/
def BufferMatchesWire (o : Receiver) (s : State) : Prop :=
  let o' := o.seeAll s.remaining
  o'.clk = true ∧ o'.dio = true ∧ o'.oe = true ∧ o'.receiving = false ∧
    ∀ (p : Fin 4) (v : Byte), o'.lastTo (s.digitAddr p) = some v → s.cell p = v

/-- The turns of a host that keeps its duty (R214, R234): every access is an aligned word at a register that allows
it, and after a CMD write the next one comes only after a poll for BUSY = 0 (or a reset). The first argument says
whether a command may be in progress. -/
def serialised : Bool → List Turn → Bool
  | _, [] => true
  | pending, .write offset size _ :: rest =>
    alignedWord offset size &&
      match HostReg.at? offset with
      | some .cmd => !pending && serialised true rest
      | some .status | some .full | some .half | some .bufWord | some .pins => serialised pending rest
      | none => false
  | pending, .read offset size :: rest =>
    alignedWord offset size &&
      match HostReg.at? offset with
      | some .status | some .full | some .half | some .bufWord | some .pins => serialised pending rest
      | some .cmd => false
      | none => false
  | _, .waitIdle :: rest => serialised false rest
  | pending, .engine :: rest => serialised pending rest
  | _, .reset :: rest => serialised false rest

/-- A state in which nothing has gone wrong and whose host keeps its duty from here on. -/
def State.Safe (s : State) : Prop := s.faulted = false ∧ serialised s.busy s.schedule = true

/-- A state without what the acknowledgment draws reach: the two samples in STATUS, the bits in HISTORY, the word a
STATUS read returned, and the count of draws (R33, R123). -/
def State.withoutDraws (s : State) : State :=
  { s with
    status := { s.status with ackA := false, ackD := false }
    history := s.history.map fun e => ⟨e.event, none⟩
    reply := none
    drawCount := 0 }

/-- The outcome of a step without what the draws reach. -/
def resultWithoutDraws : Result → Result
  | .next s => .next s.withoutDraws
  | .fault r => .fault r
  | .refused r => .refused r

end Sys2Proof.Machine
end

