-- ==== Sys2Proof/Certificates/Slice0/Obligations.lean ====
section
/-! DEFINITION. The statements for the provers. Each docstring names the rule of the spec it formalises; what each
says in words stands in OBLIGATIONS.json. -/

open Sys2Proof Sys2Proof.Machine

/-! ## Encoding -/

/-- 30_encoding R70, R72: every bit of an encoding comes back, at every value its field admits. The encoding is the
spec's own (D3, D4, D11). -/
def Obligations.DecodeOfEncodeIsTheCommand : Prop :=
  ∀ i : Instr, i.wellFormed = true → decode (encode i) = .ok i

/-- 30_encoding R72, R74: a word has one reading, that reading is well formed, and its encoding is the word. The
encoding is the spec's own (D3). -/
def Obligations.EncodeOfDecodeIsTheWord : Prop :=
  ∀ (w : Word) (i : Instr), decode w = .ok i → i.wellFormed = true ∧ encode i = w

/-- 30_encoding R72: the decoder reads a word as a command exactly when the word is covered by that command's row, and
no word is covered by two rows. The encoding is the spec's own (D3). -/
def Obligations.DecoderAgreesWithTheOpcodeRows : Prop :=
  (∀ (w : Word) (i : Instr), decode w = .ok i →
    ∀ r ∈ opcodeRows, r.covers w = true ↔ r.mnemonic = mnemonicOf i) ∧
  (∀ w : Word, (∃ e, decode w = .error e) ↔ ∀ r ∈ opcodeRows, r.covers w = false) ∧
  (∀ (w : Word), ∀ r ∈ opcodeRows, ∀ q ∈ opcodeRows, r.covers w = true → q.covers w = true → r = q)

/-- 30_encoding R73: the four kinds of illegal word, and what the block does with one. The fields are written as
arithmetic on the word's number: OP = w / 2^24, word[23:16] = w / 2^16 mod 2^8, word[23:3] = w / 2^3 mod 2^21,
word[23:0] = w mod 2^24. The spec's own choices D3, D5 and D11; the schedule is the model's form
(notes/assumptions/2). -/
def Obligations.IllegalEncodingsAreRejected : Prop :=
  ∀ w : Word,
    ((∃ e, decode w = .error e) ↔
      (w.toNat / 2 ^ 24 = 0x00 ∨ 0x08 ≤ w.toNat / 2 ^ 24 ∨
       (0x02 ≤ w.toNat / 2 ^ 24 ∧ w.toNat / 2 ^ 24 ≤ 0x04 ∧ w.toNat / 2 ^ 16 % 2 ^ 8 ≠ 0) ∨
       (w.toNat / 2 ^ 24 = 0x05 ∧ w.toNat / 2 ^ 3 % 2 ^ 21 ≠ 0) ∨
       (0x06 ≤ w.toNat / 2 ^ 24 ∧ w.toNat / 2 ^ 24 ≤ 0x07 ∧ w.toNat % 2 ^ 24 ≠ 0))) ∧
    ∀ (s : State) (rest : List Turn), (∃ e, decode w = .error e) → s.faulted = false → s.busy = false →
      s.schedule = .write 0x00 4 w :: rest →
      step s = .next { s with
        schedule := rest
        status := { s.status with rej := true, cause := .illegalEncoding } }

/-- Words written out from 30_encoding R70 to R72 and 95_test_vectors 2.1, 2.4 to 2.8. The encoding is the spec's own
(D3). -/
def Obligations.CommandWordsOfTheSpecDecode : Prop :=
  decode 0x010186A0 = .ok (.setSpeed 100000) ∧ decode 0x01FFFFFF = .ok (.setSpeed 16777215) ∧
  decode 0x020005FF = .ok (.writeRaw 5 0xFF) ∧ decode 0x02001349 = .ok (.writeRaw 0x13 0x49) ∧
  decode 0x03000330 = .ok (.writeChar 3 0x30) ∧ decode 0x04000231 = .ok (.writeCharWithPoint 2 0x31) ∧
  decode 0x05000003 = .ok (.displayOn 3) ∧ decode 0x06000000 = .ok .displayOff ∧
  decode 0x07000000 = .ok .displayClear ∧ decode 0x02010000 = .error .reservedP ∧
  decode 0x05000008 = .error .reservedB ∧ decode 0x06000001 = .error .reservedN ∧
  decode 0xFF000000 = .error .unassignedOp

/-! ## The step -/

/-- 43_display_buffer R149: a CMD write of a command's word runs that command, and `withFetchWord` makes it the next
step. What the step adds is the passing of the turn. The host step is the spec's own (D3, D17, D18); the schedule is
the model's form (notes/assumptions/2 and 7). -/
def Obligations.StepRunsTheSubmittedCommand : Prop :=
  ∀ (s : State) (w : Word) (i : Instr), decode w = .ok i →
    step (s.withFetchWord 32 w.toNat) = exec i s ∧
    ∀ rest, s.schedule = .write 0x00 4 w :: rest → step s = exec i (s.setSchedule rest)

/-- 60_exceptions R203, 10_state R32: a step stops with a fault exactly when FAULTED = 1 and no reset comes next, and is
refused exactly for a host access that R32 does not admit. So no command word stops the machine. The spec's own choices
D18 and D33. That a reset is processed when FAULTED = 1 is the model's reading, where R203 alone enables nothing further
(notes/assumptions/9); the fault's form, the schedule and the refusals' order are the model's (notes/assumptions/1, 2 and
14). -/
def Obligations.StepStopsOnlyWhereTheSpecSays : Prop :=
  ∀ s : State,
    (step s = .fault .hostOverrun ↔ s.faulted = true ∧ ∀ rest, s.schedule ≠ .reset :: rest) ∧
    ((∃ r, step s = .refused r) ↔ s.faulted = false ∧
      ((∃ offset size data rest, s.schedule = .write offset size data :: rest ∧
          ¬ (size = 4 ∧ offset ∈ [0x00, 0x04, 0x08, 0x0C, 0x10, 0x14])) ∨
       (∃ offset size rest, s.schedule = .read offset size :: rest ∧
          ¬ (size = 4 ∧ offset ∈ [0x04, 0x08, 0x0C, 0x10, 0x14]))))

/-- 60_exceptions R213, 41_protocol_engine R121: with BUSY = 0 the engine has nothing to do, and nothing changes. That
a step of the idle machine with an empty schedule is answered by the same state, and that a turn given to the idle
engine, or to a poll that finds BUSY = 0, only passes, is the model's choice (notes/assumptions/2; for `reply`, 8). -/
def Obligations.IdleMachineStaysAsItIs : Prop :=
  ∀ s : State, s.faulted = false → s.busy = false →
    (s.schedule = [] → step s = .next s) ∧
    ∀ rest, s.schedule = .engine :: rest ∨ s.schedule = .waitIdle :: rest →
      step s = .next { s with schedule := rest }

/-! ## SET_SPEED -/

/-- 40_timing R101 and R102: SET_SPEED whole. Its word; the pair an accepted rate gives, with no pin event, and
everything that stays; a zero rate rejected; and no effect on the timing of a command in progress. The word (D3, D4),
the form of the rejection (D5) and the overrun (R203, D18) are the spec's own choices; the overrun as a next state
with FAULTED = 1, in the command itself, is the model's (notes/assumptions/1 and 15), and so is a rate of 2^24 or
more, which no word carries (notes/assumptions/10). -/
def Obligations.SetSpeedSetsTheTimingPair : Prop :=
  ∀ (rate : Nat) (s : State), s.faulted = false →
    (rate < 2 ^ 24 → (encode (.setSpeed rate)).toNat = 0x01000000 + rate) ∧
    (s.busy = true → exec (.setSpeed rate) s = .next { s with faulted := true }) ∧
    (s.busy = false → rate = 0 →
      exec (.setSpeed rate) s = .next { s with status := { s.status with rej := true, cause := .rateZero } }) ∧
    (s.busy = false → rate ≠ 0 → ∃ t, exec (.setSpeed rate) s = .next t ∧
      (4 ≤ 1000000 / rate → t.full.toNat = 1000000 / rate / 2 ∧ t.half.toNat = 1000000 / rate / 4) ∧
      (1000000 / rate < 4 → t.full.toNat = 2 ∧ t.half.toNat = 1) ∧
      AcceptedWith [] t ∧ t.buf = s.buf ∧ KeepsTheRest (s.setTiming t.full t.half) t)

/-- 40_timing R102: a zero rate is rejected. The form of a rejection is the spec's own (D5). -/
def Obligations.ZeroRateIsRejected : Prop :=
  ∀ s : State, s.faulted = false → s.busy = false →
    exec (.setSpeed 0) s = .next { s with status := { s.status with rej := true, cause := .rateZero } }

/-- 40_timing R103: the four laws of the timing pair. The spec marks these laws as derived from R101. -/
def Obligations.TimingPairLaws : Prop :=
  ∀ (r : Nat) (s t : State), 1 ≤ r → s.faulted = false → s.busy = false → exec (.setSpeed r) s = .next t →
    (2 ≤ t.full.toNat ∧ 1 ≤ t.half.toNat ∧ (1000000 / r / 4 = 0 ↔ 1000000 / r < 4)) ∧
    t.half.toNat = t.full.toNat / 2 ∧
    (∀ (r' : Nat) (t' : State), r ≤ r' → exec (.setSpeed r') s = .next t' →
      t'.full.toNat ≤ t.full.toNat ∧ t'.half.toNat ≤ t.half.toNat) ∧
    (166667 ≤ r → r ≤ 16777215 → t.full = 2 ∧ t.half = 1)

/-- 40_timing R104: the pairs SET_SPEED can produce are the pairs (p/2, p/4) of the periods of at least 4, the model's
test of a pair says exactly that, and the reset pair is one of them. The spec marks the set as derived from R101, and
the constraint on the reset pair as its own choice (D2). -/
def Obligations.ReachableTimingPairsAreThePeriods : Prop :=
  (∀ full half : Word,
    ((∃ r, 1 ≤ r ∧ r < 2 ^ 24 ∧ ∀ s : State, s.faulted = false → s.busy = false →
        ∃ t, exec (.setSpeed r) s = .next t ∧ t.full = full ∧ t.half = half) ↔
      ∃ p r, 4 ≤ p ∧ p ≤ 1000000 ∧ 1 ≤ r ∧ p = 1000000 / r ∧ full.toNat = p / 2 ∧ half.toNat = p / 4) ∧
    (reachableTiming full half = true ↔
      ∃ p r, 4 ≤ p ∧ p ≤ 1000000 ∧ 1 ≤ r ∧ p = 1000000 / r ∧ full.toNat = p / 2 ∧ half.toNat = p / 4)) ∧
  reachableTiming Config.params.resetFull Config.params.resetHalf = true

/-! ## The buffer commands -/

/-- 43_display_buffer R150: WRITE_RAW whole. Its word; the words with its OP that are no command; the overrun; and
what it stores, sends and leaves alone. The word (D3), the write at acceptance (D17) and the overrun (R203, D18) are
the spec's own choices; the overrun as a next state with FAULTED = 1, in the command itself, and the name `reservedP`
are the model's (notes/assumptions/1, 15 and 22). -/
def Obligations.WriteRawStoresAndSends : Prop :=
  ∀ (pos pattern : Byte) (p : Fin 4) (s : State), p.val = pos.toNat % 4 → s.faulted = false →
    (encode (.writeRaw pos pattern)).toNat = 0x02000000 + pos.toNat * 2 ^ 8 + pattern.toNat ∧
    (∀ w : Word, w.toNat / 2 ^ 24 = 2 → w.toNat / 2 ^ 16 % 2 ^ 8 ≠ 0 → decode w = .error .reservedP) ∧
    (s.busy = true → exec (.writeRaw pos pattern) s = .next { s with faulted := true }) ∧
    (s.busy = false → ∃ t, exec (.writeRaw pos pattern) s = .next t ∧
      t.cell p = pattern ∧ (∀ q, q ≠ p → t.cell q = s.cell q) ∧
      AcceptedWith (frame s.full s.half s.params.digitAddr[p] pattern) t ∧ KeepsTheRest s t)

/-- 43_display_buffer R151, 42_glyph_encoder R132 and R135: WRITE_CHAR of any code but '.' stores the pattern of the
glyph index that a row of the table of R132 gives the code. The masking of the position (D8), the ROM as a parameter
(D12) and ASCII (D13) are the spec's own choices; the table is derived by the spec. -/
def Obligations.WriteCharStoresTheGlyph : Prop :=
  ∀ (pos code : Byte) (p : Fin 4) (g : Fin 31) (s : State), p.val = pos.toNat % 4 → code ≠ 0x2E →
    g.val ∈ glyphsByTable code → s.faulted = false → s.busy = false →
    ∃ t, exec (.writeChar pos code) s = .next t ∧
      t.cell p = s.params.glyphRom[g] ∧ (∀ q, q ≠ p → t.cell q = s.cell q) ∧
      AcceptedWith (frame s.full s.half s.params.digitAddr[p] s.params.glyphRom[g]) t ∧ KeepsTheRest s t

/-- 43_display_buffer R152, with the position mask of R151 and the write at acceptance of R149: WRITE_CHAR of '.'
keeps the glyph bits of the cell and sets its point. The mask is the spec's own choice D8 (notes/assumptions/19), as
are the write at acceptance (D17) and the code of '.' (D13, notes/assumptions/20). -/
def Obligations.WriteCharPointKeepsTheGlyph : Prop :=
  ∀ (pos : Byte) (p : Fin 4) (s : State), p.val = pos.toNat % 4 → s.faulted = false → s.busy = false →
    ∃ t, exec (.writeChar pos 0x2E) s = .next t ∧
      (∀ j, j < 7 → (t.cell p).getLsbD j = (s.cell p).getLsbD j) ∧ (t.cell p).getLsbD 7 = true ∧
      ((s.cell p).getLsbD 7 = true → t.cell p = s.cell p) ∧ (s.cell p = 0 → t.cell p = 0x80) ∧
      (∀ q, q ≠ p → t.cell q = s.cell q) ∧
      AcceptedWith (frame s.full s.half s.params.digitAddr[p] (t.cell p)) t ∧ KeepsTheRest s t

/-- 43_display_buffer R153: WRITE_CHAR_WITH_POINT, '.' included, stores the pattern of the code's glyph index with its
point set. As for WRITE_CHAR, D8, D12 and D13 are the spec's own choices. -/
def Obligations.WriteCharWithPointSetsThePoint : Prop :=
  ∀ (pos code : Byte) (p : Fin 4) (g : Fin 31) (s : State), p.val = pos.toNat % 4 →
    g.val ∈ glyphsByTable code → s.faulted = false → s.busy = false →
    ∃ t, exec (.writeCharWithPoint pos code) s = .next t ∧
      t.cell p = s.params.glyphRom[g] ||| 0x80 ∧ (∀ q, q ≠ p → t.cell q = s.cell q) ∧
      AcceptedWith (frame s.full s.half s.params.digitAddr[p] (s.params.glyphRom[g] ||| 0x80)) t ∧
      KeepsTheRest s t

/-- 43_display_buffer R154: DISPLAY_ON. The control bytes are parameters by the spec's own choice (D10). -/
def Obligations.DisplayOnSendsTheBrightness : Prop :=
  ∀ (bright : BitVec 3) (b : Fin 8) (s : State), b.val = bright.toNat → s.faulted = false → s.busy = false →
    ∃ t, exec (.displayOn bright) s = .next t ∧ t.buf = s.buf ∧
      AcceptedWith (frame s.full s.half s.params.sysCmdAddr s.params.dispOnData[b]) t ∧ KeepsTheRest s t

/-- 43_display_buffer R155: DISPLAY_OFF. The control byte is a parameter by the spec's own choice (D10). -/
def Obligations.DisplayOffSendsTheOffByte : Prop :=
  ∀ s : State, s.faulted = false → s.busy = false →
    ∃ t, exec .displayOff s = .next t ∧ t.buf = s.buf ∧
      AcceptedWith (frame s.full s.half s.params.sysCmdAddr s.params.dispOffData) t ∧ KeepsTheRest s t

/-- 43_display_buffer R156, and its events and duration in R158 and R239: DISPLAY_CLEAR. The order of the frames is the
spec's own choice (D16), and the spec marks the duration as derived. -/
def Obligations.DisplayClearBlanksEveryDigit : Prop :=
  ∀ s : State, s.faulted = false → s.busy = false →
    ∃ t, exec .displayClear s = .next t ∧ (∀ q, t.cell q = 0) ∧
      AcceptedWith
        (frame s.full s.half s.params.digitAddr[0] 0 ++ frame s.full s.half s.params.digitAddr[1] 0 ++
         frame s.full s.half s.params.digitAddr[2] 0 ++ frame s.full s.half s.params.digitAddr[3] 0) t ∧
      t.seqEvents.length = 484 ∧ duration t.seqEvents = 92 * s.full.toNat + 136 * s.half.toNat ∧ KeepsTheRest s t

/-- 20_memory R58, 95_test_vectors E10: a second DISPLAY_CLEAR, from any idle state with the first one's timing and
parameters, leaves the same BUF and has the same event list. The events rest on the order of D16, the spec's own
choice. -/
def Obligations.DisplayClearTwiceIsOnce : Prop :=
  ∀ s t u v : State, s.faulted = false → s.busy = false → exec .displayClear s = .next t →
    u.faulted = false → u.busy = false → u.params = t.params → u.full = t.full → u.half = t.half →
    exec .displayClear u = .next v → v.buf = t.buf ∧ v.seqEvents = t.seqEvents

/-- 20_memory R55: only the two low bits of a position count, in all three commands that take one. For the two
character commands the masking is the spec's own choice (D8). -/
def Obligations.PositionsAreMasked : Prop :=
  ∀ (pos x : Byte) (s : State),
    exec (.writeRaw pos x) s = exec (.writeRaw (pos &&& 3) x) s ∧
    exec (.writeChar pos x) s = exec (.writeChar (pos &&& 3) x) s ∧
    exec (.writeCharWithPoint pos x) s = exec (.writeCharWithPoint (pos &&& 3) x) s ∧
    ∀ q, q.val ≠ pos.toNat % 4 → ∀ t, exec (.writeRaw pos x) s = .next t → t.cell q = s.cell q

/-- 43_display_buffer R157, with the frames of R150 to R156: every command but SET_SPEED starts its own frames at once,
one, or four for DISPLAY_CLEAR, none deferred and none merged: the engine's next step performs the first frame's first
event. The number of frames is R158, which the spec marks as derived; the frames rest on its own choices D8, D10, D12 and
D16 (notes/assumptions/19); that the engine moves when the schedule is empty is the model's (notes/assumptions/2). -/
def Obligations.EveryCommandStartsItsFramesAtOnce : Prop :=
  ∀ (i : Instr) (s : State), (∀ rate, i ≠ .setSpeed rate) → s.faulted = false → s.busy = false →
    ∃ t : State, exec i s = .next t ∧
      (s.framesOf i).length = (if i = .displayClear then 4 else 1) ∧
      t.seqEvents = (s.framesOf i).flatMap (fun f => frame s.full s.half f.1 f.2) ∧ t.seqPc = 0 ∧ t.busy = true ∧
      ∃ u : State, step (t.setSchedule []) = .next u ∧ u.seqPc = 1 ∧
        u.history = s.history ++ [⟨.setDio false, none⟩]

/-- 43_display_buffer R159: the laws (a) to (f), in an idle block whose parameters meet their constraints. The spec
marks these laws as derived from R150 to R156. -/
def Obligations.BufferWriteLaws : Prop :=
  ∀ (pos x : Byte) (p : Fin 4) (s t : State), p.val = pos.toNat % 4 → s.params.ok = true → s.faulted = false →
    s.busy = false →
    (x ≠ 0x2E → exec (.writeChar pos x) s = .next t → (t.cell p).getLsbD 7 = false) ∧
    (exec (.writeCharWithPoint pos x) s = .next t → (t.cell p).getLsbD 7 = true) ∧
    (exec (.writeChar pos 0x2E) s = .next t →
      ∀ u v : State, u.faulted = false → u.busy = false → u.params = t.params → u.full = t.full →
        u.half = t.half → u.buf = t.buf → exec (.writeChar pos 0x2E) u = .next v →
        v.buf = t.buf ∧ v.seqEvents = t.seqEvents) ∧
    ((exec (.writeRaw pos x) s = .next t ∨ exec (.writeChar pos x) s = .next t ∨
        exec (.writeCharWithPoint pos x) s = .next t) →
      (∀ q, q ≠ p → t.cell q = s.cell q) ∧
      t.seqEvents = frame s.full s.half s.params.digitAddr[p] (t.cell p)) ∧
    (exec .displayClear s = .next t → (∀ q, t.cell q = 0) ∧
      t.seqEvents = [0, 1, 2, 3].flatMap fun q : Fin 4 => frame s.full s.half s.params.digitAddr[q] (t.cell q)) ∧
    (∀ b, (exec (.displayOn b) s = .next t ∨ exec .displayOff s = .next t) →
      ∃ v, t.seqEvents = frame s.full s.half s.params.sysCmdAddr v)

/-! ## The glyph encoder -/

/-- 42_glyph_encoder R131: ENCODE by the first match in the literal order of the checks, with `c` the folded code, and
the rule's corner cases. -/
def Obligations.EncodeTakesTheFirstMatch : Prop :=
  (∀ code : Byte,
    let n := code.toNat
    let c := if 0x40 < n then (code &&& ~~~(0x20 : Byte)).toNat else n
    ((glyphIndex code).val =
      if n < 30 then n
      else if 0x30 ≤ n ∧ n ≤ 0x39 then n - 0x30
      else if 0x41 ≤ c ∧ c ≤ 0x4A then c - 0x41 + 10
      else if c = 0x4C then 20
      else if 0x4E ≤ c ∧ c ≤ 0x52 then 21 + (c - 0x4E)
      else if c = 0x54 then 26
      else if c = 0x55 then 27
      else if c = 0x2D then 28
      else if c = 0x2A then 29
      else 30) ∧
    (n ≤ 0x40 → c = n) ∧ (0x40 < n → c = n - if code.getLsbD 5 then 0x20 else 0)) ∧
  glyphIndex 0x1E = 30 ∧ glyphIndex 0x1F = 30 ∧ glyphIndex 0x60 = 30 ∧ glyphIndex 0xE1 = 30 ∧
  glyphIndex 0x2D = 28 ∧ glyphIndex 0x2A = 29 ∧ glyphIndex 0x72 = 25

/-- 42_glyph_encoder R132: the table is exhaustive, its rows are disjoint, and it agrees with ENCODE of R131. The spec
marks the table as derived from R131. -/
def Obligations.EncodeAgreesWithTheTable : Prop :=
  ∀ code : Byte, glyphsByTable code = [(glyphIndex code).val]

/-- 42_glyph_encoder R133 (a) to (f), the characters by their codes. The spec marks these laws as derived from R131.
-/
def Obligations.EncodeLaws : Prop :=
  (∀ code : Byte, (glyphIndex code).val ≤ 30) ∧
  (∀ d : Fin 10, (glyphIndex (BitVec.ofNat 8 (0x30 + d))).val = d) ∧
  (∀ i : Fin 10, (glyphIndex (BitVec.ofNat 8 (0x41 + i))).val = 10 + i ∧
    (glyphIndex (BitVec.ofNat 8 (0x61 + i))).val = 10 + i) ∧
  (∀ code : Byte, (∀ row ∈ glyphTable, ∀ r ∈ row.2, within r.1 r.2 code = false) → (glyphIndex code).val = 30) ∧
  (glyphIndex 0x20).val = 30 ∧ (glyphIndex 0x2E).val = 30 ∧
  (∀ code : Byte, 0x80 ≤ code.toNat → (glyphIndex code).val = 30) ∧
  (∀ g : Fin 30, (glyphIndex (BitVec.ofNat 8 g)).val = g) ∧
  (∀ code : Byte, glyphIndex (BitVec.ofNat 8 (glyphIndex code).val) = glyphIndex code)

/-- 42_glyph_encoder R136: '.' has no glyph, and WRITE_CHAR_WITH_POINT of '.' stores a blank cell with its point lit,
in a block whose ROM meets its constraints. The spec marks this as derived from R131 and R153; that entry 30 is blank
is its own choice (D12). -/
def Obligations.PointCharacterStoresALitBlank : Prop :=
  ∀ (pos : Byte) (p : Fin 4) (s : State), p.val = pos.toNat % 4 → s.params.ok = true → s.faulted = false →
    s.busy = false →
    glyphIndex 0x2E = 30 ∧ s.params.glyphRom[30] ||| 0x80 = 0x80 ∧
    ∃ t, exec (.writeCharWithPoint pos 0x2E) s = .next t ∧ t.cell p = s.params.glyphRom[30] ||| 0x80

/-! ## STATUS, rejection and the overrun -/

/-- 10_state R26: the layout of STATUS, its reserved bits, and the codes of CAUSE. The layout is the spec's own choice
(D6, D7). -/
def Obligations.StatusWordLayout : Prop :=
  ∀ s : State,
    s.statusWord.getLsbD 0 = decide (s.seqPc < s.seqEvents.length) ∧ s.statusWord.getLsbD 1 = s.status.rej ∧
    s.statusWord.toNat / 4 % 4 =
      (match s.status.cause with | .none => 0 | .illegalEncoding => 1 | .rateZero => 2) ∧
    s.statusWord.getLsbD 4 = s.status.ackValid ∧ s.statusWord.getLsbD 5 = s.status.ackA ∧
    s.statusWord.getLsbD 6 = s.status.ackD ∧ ∀ j, 7 ≤ j → s.statusWord.getLsbD j = false

/-- 10_state R27 and R28: what accepting and rejecting a word does to STATUS, and what alone writes its fields: REJ and
CAUSE a CMD write with BUSY = 0 or a reset, and the ACK bits the Sample that comes next or a reset. The form of acceptance
and rejection (D5, D6) and the fields of a Sample (D7) are the spec's own; the schedule is the model's form
(notes/assumptions/2). -/
def Obligations.AcceptanceAndRejectionOfStatus : Prop :=
  (∀ (w : Word) (s t : State) (rest : List Turn), s.faulted = false → s.busy = false →
    s.schedule = .write 0x00 4 w :: rest → step s = .next t →
    t.status.ackValid = s.status.ackValid ∧ t.status.ackA = s.status.ackA ∧ t.status.ackD = s.status.ackD ∧
    ((t.status.rej = false ∧ t.status.cause = .none) ∨
     (t.status.rej = true ∧ t.status.cause ≠ .none ∧
       t = { s with schedule := rest, status := { s.status with rej := true, cause := t.status.cause } })) ∧
    t.busy = decide (t.seqPc < t.seqEvents.length)) ∧
  ∀ s t : State, step s = .next t →
    (t.status.rej ≠ s.status.rej ∨ t.status.cause ≠ s.status.cause →
      (∃ rest, s.schedule = .reset :: rest) ∨
      ∃ w rest, s.schedule = .write 0x00 4 w :: rest ∧ s.busy = false) ∧
    (t.status.ackValid ≠ s.status.ackValid ∨ t.status.ackA ≠ s.status.ackA ∨ t.status.ackD ≠ s.status.ackD →
      (∃ rest, s.schedule = .reset :: rest) ∨
      (s.busy = true ∧ t.seqPc = s.seqPc + 1 ∧
        (s.seqEvents[s.seqPc]? = some (.sample .address) ∧
           t.status = { s.status with ackA := Config.draw s.drawCount, ackValid := false } ∨
         s.seqEvents[s.seqPc]? = some (.sample .data) ∧
           t.status = { s.status with ackD := Config.draw s.drawCount, ackValid := true })))

/-- 60_exceptions R201: a word that is not accepted changes REJ and CAUSE alone, and each cause has its one condition.
The form of a rejection is the spec's own (D5, D6). -/
def Obligations.RejectionChangesOnlyRejAndCause : Prop :=
  ∀ (w : Word) (s : State) (rest : List Turn), s.faulted = false → s.busy = false →
    s.schedule = .write 0x00 4 w :: rest →
    ∃ t, step s = .next t ∧
      (t.status.rej = true ↔ (∃ e, decode w = .error e) ∨ decode w = .ok (.setSpeed 0)) ∧
      (t.status.rej = true →
        t = { s with schedule := rest, status := { s.status with rej := true, cause := t.status.cause } } ∧
        (t.status.cause = .illegalEncoding ↔ ∃ e, decode w = .error e) ∧
        (t.status.cause = .rateZero ↔ decode w = .ok (.setSpeed 0)))

/-- 60_exceptions R202: one outcome for one CMD write, the overrun before the encoding and the encoding before the
rate. The order is the spec's own choice (D5, D18). -/
def Obligations.OutcomesOfACmdWriteInOrder : Prop :=
  ∀ (w : Word) (s : State) (rest : List Turn), s.faulted = false → s.schedule = .write 0x00 4 w :: rest →
    (s.busy = true → step s = .next { s with schedule := rest, faulted := true }) ∧
    (s.busy = false → ∃ t, step s = .next t ∧ t.faulted = false ∧
      ((∃ e, decode w = .error e) → t.status.cause = .illegalEncoding) ∧
      (decode w = .ok (.setSpeed 0) → t.status.cause = .rateZero) ∧
      (∀ i, decode w = .ok i → i ≠ .setSpeed 0 → t.status.rej = false ∧ t.status.cause = .none))

/-- 60_exceptions R203: a CMD write while BUSY = 1 sets FAULTED and changes nothing else, and from then on every step
of every agent stops. That the stop is the fault HOST_OVERRUN of the step after it, and that the write's turn has
passed, is the model's form of it (notes/assumptions/1). The overrun is the spec's own choice (D18). -/
def Obligations.CmdWriteWhileBusyFaultsForGood : Prop :=
  ∀ (w : Word) (s : State) (rest : List Turn), s.faulted = false → s.busy = true →
    s.schedule = .write 0x00 4 w :: rest →
    ∃ t, step s = .next t ∧ t = { s with schedule := rest, faulted := true } ∧
      ∀ u : State, u.faulted = true → (∀ l, u.schedule ≠ .reset :: l) → step u = .fault .hostOverrun

/-- 60_exceptions R202, R203: the same of a command itself: while BUSY = 1 it has none of its own effect. The overrun
is the spec's own choice (D18); its form is the model's (notes/assumptions/1 and 15). -/
def Obligations.CommandWhileBusyIsAnOverrun : Prop :=
  ∀ (i : Instr) (s : State), s.faulted = false → s.busy = true → exec i s = .next { s with faulted := true }

/-- 10_state R31: no step clears FAULTED, and reset does not either. FAULTED is the spec's own choice (D18); that a
reset is still processed is read from it (notes/assumptions/9). -/
def Obligations.FaultedIsNeverCleared : Prop :=
  ∀ s t : State, s.faulted = true → step s = .next t → t.faulted = true

/-! ## The protocol engine -/

/-- 41_protocol_engine R110 and R121: the effect of each event, and of the engine's step, on every field. The engine
moves when no turn is left, when the host gives it a turn, and while a polling host waits (notes/assumptions/2). The
STATUS fields of a sample (D7) and the step's form (D28, D32) are the spec's own choices. -/
def Obligations.EngineStepPerformsTheNextEvent : Prop :=
  ∀ (s : State) (e : Event) (rest : List Turn), s.faulted = false → s.seqEvents[s.seqPc]? = some e →
    (s.schedule = [] ∧ rest = [] ∨ s.schedule = .engine :: rest ∨
      (∃ l, s.schedule = .waitIdle :: l) ∧ rest = s.schedule) →
    step s = .next
      (match e with
       | .setClk v => { s with
          pins := { s.pins with clkOut := v }, schedule := rest, seqPc := s.seqPc + 1
          history := s.history ++ [⟨.setClk v, none⟩] }
       | .setDio v => { s with
          pins := { s.pins with dioOut := v }, schedule := rest, seqPc := s.seqPc + 1
          history := s.history ++ [⟨.setDio v, none⟩] }
       | .dioIn => { s with
          pins := { s.pins with dioOe := false }, schedule := rest, seqPc := s.seqPc + 1
          history := s.history ++ [⟨.dioIn, none⟩] }
       | .dioOut => { s with
          pins := { s.pins with dioOe := true }, schedule := rest, seqPc := s.seqPc + 1
          history := s.history ++ [⟨.dioOut, none⟩] }
       | .wait n => { s with
          schedule := rest, seqPc := s.seqPc + 1, history := s.history ++ [⟨.wait n, none⟩] }
       | .sample .address => { s with
          status := { s.status with ackA := Config.draw s.drawCount, ackValid := false }
          drawCount := s.drawCount + 1, schedule := rest, seqPc := s.seqPc + 1
          history := s.history ++ [⟨.sample .address, some (Config.draw s.drawCount)⟩] }
       | .sample .data => { s with
          status := { s.status with ackD := Config.draw s.drawCount, ackValid := true }
          drawCount := s.drawCount + 1, schedule := rest, seqPc := s.seqPc + 1
          history := s.history ++ [⟨.sample .data, some (Config.draw s.drawCount)⟩] })

/-- 41_protocol_engine R118: which sequence, and which bit of which byte, each of a frame's 121 events belongs to. The
spec marks the index ranges as derived from R117. -/
def Obligations.FramePhasesByIndex : Prop :=
  ∀ (full half : Word) (address value : Byte) (j : Nat),
    (frame full half address value)[j]? =
      (phaseOf j).bind fun ph => (phaseEvents full half address value ph.1)[ph.2]?

/-- 41_protocol_engine R111 to R113: IDLE, START and BIT whole: their events in order, how many, how long, no flag
written, and the line levels of their corner cases. Beside them the numbers of events and the durations that R114, R115
and R117 give ACK, BYTE and FRAME. -/
def Obligations.SequenceLengthsAndDurations : Prop :=
  ∀ (full half : Word) (v : Bool) (k : AckSlot) (a x : Byte),
    (idleEvents full = [.setClk true, .wait full, .setDio true, .wait full] ∧
      (idleEvents full).length = 4 ∧ duration (idleEvents full) = 2 * full.toNat ∧
      (∀ s : State, (s.performAll (idleEvents full)).status = s.status) ∧
      ∀ p : Pins, (p.afterAll ((idleEvents full).take 2)).clkOut = true ∧
        (p.afterAll (idleEvents full)).clkOut = true ∧ (p.afterAll (idleEvents full)).dioOut = true) ∧
    (startEvents full = [.setDio false, .wait full, .setClk false] ∧
      (startEvents full).length = 3 ∧ duration (startEvents full) = full.toNat ∧
      (∀ s : State, (s.performAll (startEvents full)).status = s.status) ∧
      .setClk true ∉ startEvents full ∧
      ∀ p : Pins, (p.afterAll ((startEvents full).take 2)).clkOut = p.clkOut ∧
        (p.afterAll ((startEvents full).take 2)).dioOut = false ∧ (p.afterAll (startEvents full)).clkOut = false) ∧
    (bitEvents full half v = [.wait half, .setDio v, .wait half, .setClk true, .wait full, .setClk false] ∧
      (bitEvents full half v).length = 6 ∧ duration (bitEvents full half v) = 2 * half.toNat + full.toNat ∧
      (∀ s : State, (s.performAll (bitEvents full half v)).status = s.status) ∧
      ∀ p : Pins, p.clkOut = false →
        (∀ j u, (bitEvents full half v)[j]? = some (.setDio u) →
          (p.afterAll ((bitEvents full half v).take j)).clkOut = false) ∧
        (p.dioOut = v → (p.afterAll (bitEvents full half v)).dioOut = p.dioOut) ∧
        (p.afterAll (bitEvents full half v)).clkOut = false) ∧
    ((ackEvents full half k).length = 9 ∧ duration (ackEvents full half k) = 2 * full.toNat + half.toNat) ∧
    ((byteEvents full half x k).length = 57 ∧
      duration (byteEvents full half x k) = 10 * full.toNat + 17 * half.toNat) ∧
    ((frame full half a x).length = 121 ∧ duration (frame full half a x) = 23 * full.toNat + 34 * half.toNat)

/-- 41_protocol_engine R117: once a frame's events are complete, ACK_VALID = 1 and ACK_A and ACK_D hold its two
samples; the rest of STATUS and the latches' idle levels are as the rules leave them. Where a sample goes is the
spec's own choice (D7); that draws are counted is the model's (notes/assumptions/3). -/
def Obligations.CompletedFrameHoldsItsSamples : Prop :=
  ∀ (s : State) (full half : Word) (a x : Byte),
    let t := s.performAll (frame full half a x)
    t.status = { s.status with
      ackA := Config.draw s.drawCount, ackD := Config.draw (s.drawCount + 1), ackValid := true } ∧
    t.drawCount = s.drawCount + 2 ∧ t.pins = ⟨true, true, true⟩ ∧ t.buf = s.buf ∧ t.full = s.full ∧ t.half = s.half

/-- 30_encoding R77 and R78: a receiver of an idle line that reads a bit at each rise of CLK sees in the frame's
events one start condition, the address byte and the data byte, most significant bit first, and one idle condition.
The receiver is the model's reading of what the spec assumes of the peripheral (notes/assumptions/13). -/
def Obligations.WaveformCarriesTheFrame : Prop :=
  ∀ (o : Receiver) (full half : Word) (a x : Byte),
    o.clk = true → o.dio = true → o.oe = true → o.receiving = false →
    o.seeAll (frame full half a x) = { o with bits := [], frames := o.frames ++ [(a, x)] }

/-- 41_protocol_engine R116, 20_memory R57, 40_timing R101, 10_state R28: while BUSY = 1 and no reset comes, a step either
leaves the sequencer, the latches, STATUS and HISTORY alone or performs exactly the next event, and it writes none of BUF,
FULL, HALF, REJ and CAUSE; of STATUS only a Sample writes, ACK_VALID and one of ACK_A and ACK_D. That the block goes on
after a host access is the spec's step (D28), and where a Sample goes its own choice (D7); the schedule is the model's
form (notes/assumptions/2). -/
def Obligations.CommandInProgressIsNeverSplit : Prop :=
  ∀ s t : State, s.busy = true → (∀ l, s.schedule ≠ .reset :: l) → step s = .next t →
    t.seqEvents = s.seqEvents ∧ t.buf = s.buf ∧ t.full = s.full ∧ t.half = s.half ∧
    ((t.seqPc = s.seqPc ∧ t.history = s.history ∧ t.pins = s.pins ∧ t.status = s.status) ∨
     (t.seqPc = s.seqPc + 1 ∧
      ∃ e d, s.seqEvents[s.seqPc]? = some e ∧ t.history = s.history ++ [⟨e, d⟩] ∧ t.pins = s.pins.after e ∧
        t.status =
          (match e with
           | .sample .address => { s.status with ackA := Config.draw s.drawCount, ackValid := false }
           | .sample .data => { s.status with ackD := Config.draw s.drawCount, ackValid := true }
           | .setClk _ | .setDio _ | .dioIn | .dioOut | .wait _ => s.status)))

/-- 70_reset_and_hazards R238, 41_protocol_engine R122: a command that the host leaves alone completes after its fixed
event list, whatever the line answers. The spec marks this as derived from R121 and R122; fairness is its own choice
(D28) and here by construction (notes/assumptions/2). -/
def Obligations.CommandRunsToItsEnd : Prop :=
  ∀ s : State, s.faulted = false → s.schedule = [] →
    ∃ t : State, Host.Core.run Sys2Proof.core s.remaining.length s = .next t ∧
      t = s.performAll s.remaining ∧ t.busy = false ∧ t.buf = s.buf ∧ t.full = s.full ∧ t.half = s.half ∧
      t.history.map Entry.event = s.history.map Entry.event ++ s.remaining

/-- 20_memory R62, 60_exceptions R214: a host that polls STATUS goes on, with BUSY = 0, once every event of the command
has been performed. The spec marks the wait as derived from R61. The polling turn is the model's form
(notes/assumptions/2), and that the words it reads do not go to `reply` its choice (notes/assumptions/8). -/
def Obligations.PollingHostGoesOnWhenIdle : Prop :=
  ∀ (s : State) (rest : List Turn), s.faulted = false → s.schedule = .waitIdle :: rest →
    ∃ t : State, Host.Core.run Sys2Proof.core (s.remaining.length + 1) s = .next t ∧
      t = (s.performAll s.remaining).setSchedule rest ∧ t.busy = false

/-! ## The host's window -/

/-- 10_state R32: the five readable registers, and the five that a write leaves alone. The word read goes to the
model's own field `reply` (notes/assumptions/8). The window is the spec's own choice (D21). -/
def Obligations.HostReadsAndReadOnlyWrites : Prop :=
  ∀ (s : State) (rest : List Turn), s.faulted = false →
    (∀ (offset : Nat) (w : Word), s.schedule = .read offset 4 :: rest →
      (offset, w) ∈ [(0x04, s.statusWord), (0x08, s.full), (0x0C, s.half), (0x10, s.bufWord), (0x14, s.pinsWord)] →
      step s = .next { s with schedule := rest, reply := some w }) ∧
    (∀ (offset : Nat) (w : Word), s.schedule = .write offset 4 w :: rest →
      offset ∈ [0x04, 0x08, 0x0C, 0x10, 0x14] → step s = .next { s with schedule := rest })

/-- 10_state R32, 20_memory R53: the packing of BUF_WORD, and the bits of PINS. The packing is the spec's own choice
(D21, D22). -/
def Obligations.PackedRegisterLayouts : Prop :=
  ∀ s : State,
    (∀ i : Fin 4, s.bufWord.extractLsb' (8 * i) 8 = s.cell i) ∧
    s.pinsWord.getLsbD 0 = s.pins.clkOut ∧ s.pinsWord.getLsbD 1 = s.pins.dioOut ∧
    s.pinsWord.getLsbD 2 = s.pins.dioOe ∧ ∀ j, 3 ≤ j → s.pinsWord.getLsbD j = false

/-! ## Reset and the parameters -/

/-- 70_reset_and_hazards R230 and R231: what reset writes, with a command in progress or without, and what it leaves.
The values but BUF's are the spec's own choices (D2, D6, D15, D19). That a reset is processed when FAULTED = 1 is the
model's reading (notes/assumptions/9), and that the rest of the schedule, the count of draws and the last reply stay is
its choice (notes/assumptions/2, 3 and 8). -/
def Obligations.ResetRestoresTheBlock : Prop :=
  ∀ (s : State) (rest : List Turn), s.schedule = .reset :: rest →
    ∃ t, step s = .next t ∧
      t = { s with
        schedule := rest, full := s.params.resetFull, half := s.params.resetHalf, buf := #v[0x00, 0x00, 0x00, 0x00]
        status := ⟨false, .none, false, false, false⟩, pins := ⟨true, true, true⟩, seqEvents := [], seqPc := 0 } ∧
      t.busy = false ∧ t.statusWord = 0

/-- 70_reset_and_hazards R230, 10_state summary: the state right after reset, field by field. The values but BUF's are
the spec's own choices (D2, D6, D15, D19). -/
def Obligations.ResetStateOfTheSpec : Prop :=
  (∀ q, State.reset.cell q = 0) ∧ State.reset.statusWord = 0 ∧ State.reset.pinsWord = 7 ∧
  State.reset.full = Config.params.resetFull ∧ State.reset.half = Config.params.resetHalf ∧
  State.reset.seqEvents = [] ∧ State.reset.seqPc = 0 ∧ State.reset.faulted = false ∧ State.reset.history = []

/-- 10_state R22 and R25, 30_encoding R84: whatever the platform supplies, the parameters meet their constraints. The
parameters are free but for this (D2, D9, D12; notes/assumptions/4). -/
def Obligations.ParametersMeetTheirConstraints : Prop :=
  let c := Config.params
  (∀ i : Fin 31, c.glyphRom[i].getLsbD 7 = false) ∧ c.glyphRom[30] = 0x00 ∧
  (∀ p q : Fin 4, p ≠ q → c.digitAddr[p] ≠ c.digitAddr[q]) ∧ (∀ p : Fin 4, c.digitAddr[p] ≠ c.sysCmdAddr) ∧
  ∃ r, 1 ≤ r ∧ c.resetFull = fullOf (periodOf r) ∧ c.resetHalf = halfOf (periodOf r)

/-- 10_state R25 and R34, 70_reset_and_hazards R230: no step changes a parameter or takes an event out of HISTORY, and
a step adds at most one. HISTORY is the spec's own choice (D28). -/
def Obligations.ParametersStayAndHistoryGrows : Prop :=
  ∀ s t : State, step s = .next t →
    t.params = s.params ∧ (t.history = s.history ∨ ∃ e, t.history = s.history ++ [e])

/-! ## Whole-machine rules and invariants -/

/-- 10_state R21: FULL and HALF change by a reset or by an accepted SET_SPEED, and by nothing else. That the write
comes at acceptance is the spec's own choice (D17). -/
def Obligations.OnlySetSpeedAndResetWriteTiming : Prop :=
  ∀ s t : State, step s = .next t → (t.full ≠ s.full ∨ t.half ≠ s.half) →
    (∃ rest, s.schedule = .reset :: rest) ∨
    ∃ w rest rate, s.schedule = .write 0x00 4 w :: rest ∧ s.busy = false ∧ decode w = .ok (.setSpeed rate) ∧
      rate ≠ 0 ∧ t.buf = s.buf ∧ t.pins = s.pins

/-- 10_state R23, 20_memory R55: the four cells are 0x00 after reset, and a cell changes by a reset, by DISPLAY_CLEAR, or
by one of the three buffer writes to that cell, and by nothing else. That the two character commands mask their position
is the spec's own choice D8 (notes/assumptions/19), and that a command writes only with BUSY = 0 is its D18. -/
def Obligations.OnlyBufferCommandsAndResetWriteBuf : Prop :=
  (∀ q, State.reset.cell q = 0x00) ∧
  (∀ (s t : State) (rest : List Turn), s.schedule = .reset :: rest → step s = .next t → ∀ q, t.cell q = 0x00) ∧
  ∀ (s t : State) (p : Fin 4), step s = .next t → t.cell p ≠ s.cell p →
    (∃ rest, s.schedule = .reset :: rest) ∨
    ∃ w rest i, s.schedule = .write 0x00 4 w :: rest ∧ s.busy = false ∧ decode w = .ok i ∧
      (i = .displayClear ∨
       ∃ pos x : Byte, pos.toNat % 4 = p ∧
         (i = .writeRaw pos x ∨ i = .writeChar pos x ∨ i = .writeCharWithPoint pos x))

/-- 10_state R29: the latches change by a reset or by an event of the engine, and by nothing else. How DIO behaves
while released is the spec's own choice (D23). -/
def Obligations.OnlyEventsAndResetWriteThePins : Prop :=
  ∀ s t : State, step s = .next t → t.pins ≠ s.pins →
    (∃ rest, s.schedule = .reset :: rest) ∨
    ∃ e, s.busy = true ∧ s.seqEvents[s.seqPc]? = some e ∧ t.pins = s.pins.after e ∧ t.seqPc = s.seqPc + 1

/-- 10_state R21, R26, R30 and the constraints of the parameters: an invariant of every step, from every state that
has it. The parts are the spec's derived facts (R21, R104) and its own choices (D2, D5). -/
def Obligations.StepKeepsTheRegisterInvariant : Prop :=
  ∀ s t : State, s.RegisterInv → step s = .next t → t.RegisterInv

/-- The register invariant, the line invariant and the buffer invariant hold right after reset, whatever turns come.
It rests on the reset levels of D15, the spec's own choice, and on notes/assumptions/5 and 13. -/
def Obligations.ResetHasTheInvariants : Prop :=
  ∀ l : List Turn, (State.reset.setSchedule l).RegisterInv ∧ (State.reset.setSchedule l).LineInv ∧
    BufferMatchesWire Receiver.fresh (State.reset.setSchedule l)

/-- 41_protocol_engine R119 and R120: the line invariant is kept by every step. The spec marks R119 and R120 as
derived; the reset levels are its own choice (D15). -/
def Obligations.StepKeepsTheLineInvariant : Prop :=
  ∀ s t : State, s.LineInv → step s = .next t → t.LineInv

/-- 41_protocol_engine R119: from any state with the line invariant, after any steps, BUSY = 0 means that both lines
are high and the data pin is an output. Reset, at power-up or in the middle of a command, gives a state with the line
invariant; a frame leaves the lines so, and an acknowledgment slot the data pin an output, wherever they start. The
spec marks R119 as derived; the reset levels are its own choice (D15). -/
def Obligations.IdleLinesWheneverNotBusy : Prop :=
  (∀ (k : Nat) (s t : State), s.LineInv → Host.Core.run Sys2Proof.core k s = .next t → t.busy = false →
    t.pins.clkOut = true ∧ t.pins.dioOut = true ∧ t.pins.dioOe = true) ∧
  (∀ l : List Turn, (State.reset.setSchedule l).LineInv) ∧
  (∀ (s t : State) (rest : List Turn), s.schedule = .reset :: rest → step s = .next t → t.LineInv) ∧
  ∀ (p : Pins) (full half : Word) (a x : Byte) (k : AckSlot),
    p.afterAll (frame full half a x) = ⟨true, true, true⟩ ∧ (p.afterAll (ackEvents full half k)).dioOe = true

/-- 41_protocol_engine R120: the engine writes DIO_OUT only while the pin is an output, and samples only while it is
released; in a frame, six fixed events come between a release and the next drive. The spec marks R120 as derived from
R113 and R114. -/
def Obligations.DataLineIsDrivenInTurn : Prop :=
  (∀ (s : State) (e : Event), s.LineInv → s.seqEvents[s.seqPc]? = some e →
    ((∃ v, e = .setDio v) → s.pins.dioOe = true) ∧ ((∃ k, e = .sample k) → s.pins.dioOe = false)) ∧
  ∀ (full half : Word) (a x : Byte) (j : Nat), (frame full half a x)[j]? = some .dioIn →
    ∃ k, ((frame full half a x).drop (j + 1)).take 6 =
      [.wait full, .setClk true, .wait full, .sample k, .setClk false, .dioOut]

/-- 10_state R24: the buffer invariant is kept by every step, the receiver watching. The spec marks R24 as derived. The
receiver is the model's (notes/assumptions/13), and that a reset starts it afresh its choice (notes/assumptions/25). -/
def Obligations.StepKeepsTheBufferInvariant : Prop :=
  ∀ (o : Receiver) (s t : State), s.params.ok = true → BufferMatchesWire o s → step s = .next t →
    BufferMatchesWire (o.watch s t) t

/-- 10_state R24: from any state with no command in progress and a receiver that has seen no frame since, under any
schedule of turns, whenever BUSY = 0 each cell whose address has had a frame holds the data byte of the last one. The spec
marks R24 as derived. The receiver is the model's (notes/assumptions/13), and that a reset starts it afresh its choice
(notes/assumptions/25). -/
def Obligations.BufferHoldsTheLastByteSent : Prop :=
  ∀ (k : Nat) (s t : State) (o : Receiver), s.params.ok = true → s.busy = false →
    watchedRun k Receiver.fresh s = some (o, t) → t.busy = false →
    ∀ (p : Fin 4) (v : Byte), o.lastTo t.params.digitAddr[p] = some v → t.cell p = v

/-- 41_protocol_engine R122 and R123, 10_state R28: the acknowledgment draws change nothing but ACK_A, ACK_D, the bits
in HISTORY and what a read returns: two states that differ only there step to two states that differ only there. The
spec marks R123 as derived; the draws are free by its own choice (D24). -/
def Obligations.DrawsNeverSteerTheBlock : Prop :=
  ∀ s s' : State, s.withoutDraws = s'.withoutDraws → resultWithoutDraws (step s) = resultWithoutDraws (step s')

/-- 60_exceptions R214, 70_reset_and_hazards R234: a host that keeps its duty never faults the model and is never
refused, and goes on keeping it. The host's duties rest on D18, D21 and D33, the spec's own choices; the schedule is
the model's form (notes/assumptions/2). -/
def Obligations.SerialisedHostNeverStops : Prop :=
  ∀ s : State, s.Safe → ∃ t, step s = .next t ∧ t.Safe
end

