-- ==== Sys2Proof/Laws/Decode.lean ====
section
/-! SUPPORT. The fields of a word as arithmetic on its number, and the one case analysis of the decoder. -/

namespace Sys2Proof

theorem opField_toNat (w : Word) : (opField w).toNat = w.toNat / 2 ^ 24 := by
  have := w.isLt
  simp [opField, Nat.shiftRight_eq_div_pow]; omega

theorem rateField_toNat (w : Word) : (rateField w).toNat = w.toNat % 2 ^ 24 := by
  simp [rateField]

theorem zField_toNat (w : Word) : (zField w).toNat = w.toNat / 2 ^ 16 % 2 ^ 8 := by
  simp [zField, Nat.shiftRight_eq_div_pow]

theorem posField_toNat (w : Word) : (posField w).toNat = w.toNat / 2 ^ 8 % 2 ^ 8 := by
  simp [posField, Nat.shiftRight_eq_div_pow]

theorem lowField_toNat (w : Word) : (lowField w).toNat = w.toNat % 2 ^ 8 := by
  simp [lowField]

theorem brightZeroField_toNat (w : Word) : (brightZeroField w).toNat = w.toNat / 2 ^ 3 % 2 ^ 21 := by
  simp [brightZeroField, Nat.shiftRight_eq_div_pow]

theorem brightField_toNat (w : Word) : (brightField w).toNat = w.toNat % 2 ^ 3 := by
  simp [brightField]

/-- Appending is arithmetic: the low part fills its own width. -/
theorem append_toNat {m n : Nat} (x : BitVec m) (y : BitVec n) : (x ++ y).toNat = x.toNat * 2 ^ n + y.toNat := by
  rw [BitVec.toNat_append, ← Nat.shiftLeft_add_eq_or_of_lt y.isLt, Nat.shiftLeft_eq]

/-- The number of an encoded command: its OP above 24 operand bits (R70). -/
theorem encode_toNat (i : Instr) : (encode i).toNat = (opOf i).toNat * 2 ^ 24 + (operandBits i).toNat :=
  append_toNat (opOf i) (operandBits i)

/-- The operand bits of a format P command: Z = 0, POS, and the low byte (R70). -/
theorem formatP_toNat (pos low : Byte) : (0#8 ++ pos ++ low).toNat = pos.toNat * 2 ^ 8 + low.toNat := by
  rw [append_toNat, append_toNat]; simp

/-- The operand bits of a format B command (R70). -/
theorem formatB_toNat (bright : BitVec 3) : (0#21 ++ bright).toNat = bright.toNat := by
  rw [append_toNat]; simp

/-- OP of an encoded command is its OP value (R72). -/
theorem opField_encode (i : Instr) : opField (encode i) = opOf i := by
  apply BitVec.eq_of_toNat_eq
  have := (operandBits i).isLt
  rw [opField_toNat, encode_toNat]; omega

/-- A mask of the high bits from bit `k` up, as R72's masks are, cuts the low `k` bits off a word's number. -/
theorem and_highMask_toNat (w : Word) (k : Nat) :
    (w &&& (BitVec.allOnes 32 >>> k) <<< k).toNat = w.toNat / 2 ^ k * 2 ^ k := by
  have h : w &&& (BitVec.allOnes 32 >>> k) <<< k = (w >>> k) <<< k := by
    ext i hi
    by_cases hik : i < k
    · simp [hik]
    · have hki : k + (i - k) = i := by omega
      have hone : (BitVec.allOnes 32)[i] = true := BitVec.getElem_allOnes i hi
      simp only [BitVec.reduceAllOnes] at hone
      simp [hik, hki, hi, hone]
  have hw := w.isLt
  have hle := Nat.div_mul_le_self w.toNat (2 ^ k)
  rw [h, BitVec.toNat_shiftLeft, BitVec.toNat_ushiftRight, Nat.shiftRight_eq_div_pow, Nat.shiftLeft_eq]
  exact Nat.mod_eq_of_lt (by omega)

/-- A row whose mask is the high bits from `k` covers the words whose number, cut there, is the row's value. -/
theorem OpcodeRow.covers_iff (r : OpcodeRow) (w : Word) (k : Nat)
    (hm : r.mask = (BitVec.allOnes 32 >>> k) <<< k) :
    r.covers w = true ↔ w.toNat / 2 ^ k * 2 ^ k = r.value.toNat := by
  rw [OpcodeRow.covers, hm, beq_iff_eq, ← BitVec.toNat_inj, and_highMask_toNat w k]

/-- Everything the decoder can answer when it accepts a word: one of the seven rows of R72, with its reserved field 0. -/
theorem decode_eq_ok {w : Word} {i : Instr} (h : decode w = .ok i) :
    (opField w = 0x01 ∧ i = .setSpeed (rateField w).toNat) ∨
    (opField w = 0x02 ∧ zField w = 0 ∧ i = .writeRaw (posField w) (lowField w)) ∨
    (opField w = 0x03 ∧ zField w = 0 ∧ i = .writeChar (posField w) (lowField w)) ∨
    (opField w = 0x04 ∧ zField w = 0 ∧ i = .writeCharWithPoint (posField w) (lowField w)) ∨
    (opField w = 0x05 ∧ brightZeroField w = 0 ∧ i = .displayOn (brightField w)) ∨
    (opField w = 0x06 ∧ rateField w = 0 ∧ i = .displayOff) ∨
    (opField w = 0x07 ∧ rateField w = 0 ∧ i = .displayClear) := by
  unfold decode decodeP decodeB decodeN at h
  repeat' split at h
  all_goals try cases h
  all_goals simp_all

end Sys2Proof
end

