-- ==== Sys2Proof/Laws/State.lean ====
section
/-! SUPPORT. Each field of the state after each update of Machine/Ops.lean, so that no later proof unfolds a record
update. -/

namespace Sys2Proof.Machine

@[simp] theorem State.setTiming_params (f h : Word) (s : State) : (s.setTiming f h).params = s.params := rfl
@[simp] theorem State.setTiming_full (f h : Word) (s : State) : (s.setTiming f h).full = f := rfl
@[simp] theorem State.setTiming_half (f h : Word) (s : State) : (s.setTiming f h).half = h := rfl
@[simp] theorem State.setTiming_buf (f h : Word) (s : State) : (s.setTiming f h).buf = s.buf := rfl
@[simp] theorem State.setTiming_status (f h : Word) (s : State) : (s.setTiming f h).status = s.status := rfl
@[simp] theorem State.setTiming_pins (f h : Word) (s : State) : (s.setTiming f h).pins = s.pins := rfl
@[simp] theorem State.setTiming_seqEvents (f h : Word) (s : State) : (s.setTiming f h).seqEvents = s.seqEvents := rfl
@[simp] theorem State.setTiming_seqPc (f h : Word) (s : State) : (s.setTiming f h).seqPc = s.seqPc := rfl
@[simp] theorem State.setTiming_faulted (f h : Word) (s : State) : (s.setTiming f h).faulted = s.faulted := rfl
@[simp] theorem State.setTiming_history (f h : Word) (s : State) : (s.setTiming f h).history = s.history := rfl
@[simp] theorem State.setTiming_schedule (f h : Word) (s : State) : (s.setTiming f h).schedule = s.schedule := rfl
@[simp] theorem State.setTiming_reply (f h : Word) (s : State) : (s.setTiming f h).reply = s.reply := rfl
@[simp] theorem State.setTiming_drawCount (f h : Word) (s : State) : (s.setTiming f h).drawCount = s.drawCount := rfl

@[simp] theorem State.setBuf_params (b : Vector Byte 4) (s : State) : (s.setBuf b).params = s.params := rfl
@[simp] theorem State.setBuf_full (b : Vector Byte 4) (s : State) : (s.setBuf b).full = s.full := rfl
@[simp] theorem State.setBuf_half (b : Vector Byte 4) (s : State) : (s.setBuf b).half = s.half := rfl
@[simp] theorem State.setBuf_buf (b : Vector Byte 4) (s : State) : (s.setBuf b).buf = b := rfl
@[simp] theorem State.setBuf_status (b : Vector Byte 4) (s : State) : (s.setBuf b).status = s.status := rfl
@[simp] theorem State.setBuf_pins (b : Vector Byte 4) (s : State) : (s.setBuf b).pins = s.pins := rfl
@[simp] theorem State.setBuf_seqEvents (b : Vector Byte 4) (s : State) : (s.setBuf b).seqEvents = s.seqEvents := rfl
@[simp] theorem State.setBuf_seqPc (b : Vector Byte 4) (s : State) : (s.setBuf b).seqPc = s.seqPc := rfl
@[simp] theorem State.setBuf_faulted (b : Vector Byte 4) (s : State) : (s.setBuf b).faulted = s.faulted := rfl
@[simp] theorem State.setBuf_history (b : Vector Byte 4) (s : State) : (s.setBuf b).history = s.history := rfl
@[simp] theorem State.setBuf_schedule (b : Vector Byte 4) (s : State) : (s.setBuf b).schedule = s.schedule := rfl
@[simp] theorem State.setBuf_reply (b : Vector Byte 4) (s : State) : (s.setBuf b).reply = s.reply := rfl
@[simp] theorem State.setBuf_drawCount (b : Vector Byte 4) (s : State) : (s.setBuf b).drawCount = s.drawCount := rfl

@[simp] theorem State.setStatus_params (t : Status) (s : State) : (s.setStatus t).params = s.params := rfl
@[simp] theorem State.setStatus_full (t : Status) (s : State) : (s.setStatus t).full = s.full := rfl
@[simp] theorem State.setStatus_half (t : Status) (s : State) : (s.setStatus t).half = s.half := rfl
@[simp] theorem State.setStatus_buf (t : Status) (s : State) : (s.setStatus t).buf = s.buf := rfl
@[simp] theorem State.setStatus_status (t : Status) (s : State) : (s.setStatus t).status = t := rfl
@[simp] theorem State.setStatus_pins (t : Status) (s : State) : (s.setStatus t).pins = s.pins := rfl
@[simp] theorem State.setStatus_seqEvents (t : Status) (s : State) : (s.setStatus t).seqEvents = s.seqEvents := rfl
@[simp] theorem State.setStatus_seqPc (t : Status) (s : State) : (s.setStatus t).seqPc = s.seqPc := rfl
@[simp] theorem State.setStatus_faulted (t : Status) (s : State) : (s.setStatus t).faulted = s.faulted := rfl
@[simp] theorem State.setStatus_history (t : Status) (s : State) : (s.setStatus t).history = s.history := rfl
@[simp] theorem State.setStatus_schedule (t : Status) (s : State) : (s.setStatus t).schedule = s.schedule := rfl
@[simp] theorem State.setStatus_reply (t : Status) (s : State) : (s.setStatus t).reply = s.reply := rfl
@[simp] theorem State.setStatus_drawCount (t : Status) (s : State) : (s.setStatus t).drawCount = s.drawCount := rfl

@[simp] theorem State.setPins_params (p : Pins) (s : State) : (s.setPins p).params = s.params := rfl
@[simp] theorem State.setPins_full (p : Pins) (s : State) : (s.setPins p).full = s.full := rfl
@[simp] theorem State.setPins_half (p : Pins) (s : State) : (s.setPins p).half = s.half := rfl
@[simp] theorem State.setPins_buf (p : Pins) (s : State) : (s.setPins p).buf = s.buf := rfl
@[simp] theorem State.setPins_status (p : Pins) (s : State) : (s.setPins p).status = s.status := rfl
@[simp] theorem State.setPins_pins (p : Pins) (s : State) : (s.setPins p).pins = p := rfl
@[simp] theorem State.setPins_seqEvents (p : Pins) (s : State) : (s.setPins p).seqEvents = s.seqEvents := rfl
@[simp] theorem State.setPins_seqPc (p : Pins) (s : State) : (s.setPins p).seqPc = s.seqPc := rfl
@[simp] theorem State.setPins_faulted (p : Pins) (s : State) : (s.setPins p).faulted = s.faulted := rfl
@[simp] theorem State.setPins_history (p : Pins) (s : State) : (s.setPins p).history = s.history := rfl
@[simp] theorem State.setPins_schedule (p : Pins) (s : State) : (s.setPins p).schedule = s.schedule := rfl
@[simp] theorem State.setPins_reply (p : Pins) (s : State) : (s.setPins p).reply = s.reply := rfl
@[simp] theorem State.setPins_drawCount (p : Pins) (s : State) : (s.setPins p).drawCount = s.drawCount := rfl

@[simp] theorem State.loadEvents_params (l : List Event) (s : State) : (s.loadEvents l).params = s.params := rfl
@[simp] theorem State.loadEvents_full (l : List Event) (s : State) : (s.loadEvents l).full = s.full := rfl
@[simp] theorem State.loadEvents_half (l : List Event) (s : State) : (s.loadEvents l).half = s.half := rfl
@[simp] theorem State.loadEvents_buf (l : List Event) (s : State) : (s.loadEvents l).buf = s.buf := rfl
@[simp] theorem State.loadEvents_status (l : List Event) (s : State) : (s.loadEvents l).status = s.status := rfl
@[simp] theorem State.loadEvents_pins (l : List Event) (s : State) : (s.loadEvents l).pins = s.pins := rfl
@[simp] theorem State.loadEvents_seqEvents (l : List Event) (s : State) : (s.loadEvents l).seqEvents = l := rfl
@[simp] theorem State.loadEvents_seqPc (l : List Event) (s : State) : (s.loadEvents l).seqPc = 0 := rfl
@[simp] theorem State.loadEvents_faulted (l : List Event) (s : State) : (s.loadEvents l).faulted = s.faulted := rfl
@[simp] theorem State.loadEvents_history (l : List Event) (s : State) : (s.loadEvents l).history = s.history := rfl
@[simp] theorem State.loadEvents_schedule (l : List Event) (s : State) : (s.loadEvents l).schedule = s.schedule := rfl
@[simp] theorem State.loadEvents_reply (l : List Event) (s : State) : (s.loadEvents l).reply = s.reply := rfl
@[simp] theorem State.loadEvents_drawCount (l : List Event) (s : State) : (s.loadEvents l).drawCount = s.drawCount := rfl

@[simp] theorem State.advance_params (s : State) : (s.advance).params = s.params := rfl
@[simp] theorem State.advance_full (s : State) : (s.advance).full = s.full := rfl
@[simp] theorem State.advance_half (s : State) : (s.advance).half = s.half := rfl
@[simp] theorem State.advance_buf (s : State) : (s.advance).buf = s.buf := rfl
@[simp] theorem State.advance_status (s : State) : (s.advance).status = s.status := rfl
@[simp] theorem State.advance_pins (s : State) : (s.advance).pins = s.pins := rfl
@[simp] theorem State.advance_seqEvents (s : State) : (s.advance).seqEvents = s.seqEvents := rfl
@[simp] theorem State.advance_seqPc (s : State) : (s.advance).seqPc = s.seqPc + 1 := rfl
@[simp] theorem State.advance_faulted (s : State) : (s.advance).faulted = s.faulted := rfl
@[simp] theorem State.advance_history (s : State) : (s.advance).history = s.history := rfl
@[simp] theorem State.advance_schedule (s : State) : (s.advance).schedule = s.schedule := rfl
@[simp] theorem State.advance_reply (s : State) : (s.advance).reply = s.reply := rfl
@[simp] theorem State.advance_drawCount (s : State) : (s.advance).drawCount = s.drawCount := rfl

@[simp] theorem State.setFaulted_params (s : State) : (s.setFaulted).params = s.params := rfl
@[simp] theorem State.setFaulted_full (s : State) : (s.setFaulted).full = s.full := rfl
@[simp] theorem State.setFaulted_half (s : State) : (s.setFaulted).half = s.half := rfl
@[simp] theorem State.setFaulted_buf (s : State) : (s.setFaulted).buf = s.buf := rfl
@[simp] theorem State.setFaulted_status (s : State) : (s.setFaulted).status = s.status := rfl
@[simp] theorem State.setFaulted_pins (s : State) : (s.setFaulted).pins = s.pins := rfl
@[simp] theorem State.setFaulted_seqEvents (s : State) : (s.setFaulted).seqEvents = s.seqEvents := rfl
@[simp] theorem State.setFaulted_seqPc (s : State) : (s.setFaulted).seqPc = s.seqPc := rfl
@[simp] theorem State.setFaulted_faulted (s : State) : (s.setFaulted).faulted = true := rfl
@[simp] theorem State.setFaulted_history (s : State) : (s.setFaulted).history = s.history := rfl
@[simp] theorem State.setFaulted_schedule (s : State) : (s.setFaulted).schedule = s.schedule := rfl
@[simp] theorem State.setFaulted_reply (s : State) : (s.setFaulted).reply = s.reply := rfl
@[simp] theorem State.setFaulted_drawCount (s : State) : (s.setFaulted).drawCount = s.drawCount := rfl

@[simp] theorem State.record_params (e : Entry) (s : State) : (s.record e).params = s.params := rfl
@[simp] theorem State.record_full (e : Entry) (s : State) : (s.record e).full = s.full := rfl
@[simp] theorem State.record_half (e : Entry) (s : State) : (s.record e).half = s.half := rfl
@[simp] theorem State.record_buf (e : Entry) (s : State) : (s.record e).buf = s.buf := rfl
@[simp] theorem State.record_status (e : Entry) (s : State) : (s.record e).status = s.status := rfl
@[simp] theorem State.record_pins (e : Entry) (s : State) : (s.record e).pins = s.pins := rfl
@[simp] theorem State.record_seqEvents (e : Entry) (s : State) : (s.record e).seqEvents = s.seqEvents := rfl
@[simp] theorem State.record_seqPc (e : Entry) (s : State) : (s.record e).seqPc = s.seqPc := rfl
@[simp] theorem State.record_faulted (e : Entry) (s : State) : (s.record e).faulted = s.faulted := rfl
@[simp] theorem State.record_history (e : Entry) (s : State) : (s.record e).history = s.history ++ [e] := rfl
@[simp] theorem State.record_schedule (e : Entry) (s : State) : (s.record e).schedule = s.schedule := rfl
@[simp] theorem State.record_reply (e : Entry) (s : State) : (s.record e).reply = s.reply := rfl
@[simp] theorem State.record_drawCount (e : Entry) (s : State) : (s.record e).drawCount = s.drawCount := rfl

@[simp] theorem State.setSchedule_params (l : List Turn) (s : State) : (s.setSchedule l).params = s.params := rfl
@[simp] theorem State.setSchedule_full (l : List Turn) (s : State) : (s.setSchedule l).full = s.full := rfl
@[simp] theorem State.setSchedule_half (l : List Turn) (s : State) : (s.setSchedule l).half = s.half := rfl
@[simp] theorem State.setSchedule_buf (l : List Turn) (s : State) : (s.setSchedule l).buf = s.buf := rfl
@[simp] theorem State.setSchedule_status (l : List Turn) (s : State) : (s.setSchedule l).status = s.status := rfl
@[simp] theorem State.setSchedule_pins (l : List Turn) (s : State) : (s.setSchedule l).pins = s.pins := rfl
@[simp] theorem State.setSchedule_seqEvents (l : List Turn) (s : State) : (s.setSchedule l).seqEvents = s.seqEvents := rfl
@[simp] theorem State.setSchedule_seqPc (l : List Turn) (s : State) : (s.setSchedule l).seqPc = s.seqPc := rfl
@[simp] theorem State.setSchedule_faulted (l : List Turn) (s : State) : (s.setSchedule l).faulted = s.faulted := rfl
@[simp] theorem State.setSchedule_history (l : List Turn) (s : State) : (s.setSchedule l).history = s.history := rfl
@[simp] theorem State.setSchedule_schedule (l : List Turn) (s : State) : (s.setSchedule l).schedule = l := rfl
@[simp] theorem State.setSchedule_reply (l : List Turn) (s : State) : (s.setSchedule l).reply = s.reply := rfl
@[simp] theorem State.setSchedule_drawCount (l : List Turn) (s : State) : (s.setSchedule l).drawCount = s.drawCount := rfl

@[simp] theorem State.setReply_params (w : Word) (s : State) : (s.setReply w).params = s.params := rfl
@[simp] theorem State.setReply_full (w : Word) (s : State) : (s.setReply w).full = s.full := rfl
@[simp] theorem State.setReply_half (w : Word) (s : State) : (s.setReply w).half = s.half := rfl
@[simp] theorem State.setReply_buf (w : Word) (s : State) : (s.setReply w).buf = s.buf := rfl
@[simp] theorem State.setReply_status (w : Word) (s : State) : (s.setReply w).status = s.status := rfl
@[simp] theorem State.setReply_pins (w : Word) (s : State) : (s.setReply w).pins = s.pins := rfl
@[simp] theorem State.setReply_seqEvents (w : Word) (s : State) : (s.setReply w).seqEvents = s.seqEvents := rfl
@[simp] theorem State.setReply_seqPc (w : Word) (s : State) : (s.setReply w).seqPc = s.seqPc := rfl
@[simp] theorem State.setReply_faulted (w : Word) (s : State) : (s.setReply w).faulted = s.faulted := rfl
@[simp] theorem State.setReply_history (w : Word) (s : State) : (s.setReply w).history = s.history := rfl
@[simp] theorem State.setReply_schedule (w : Word) (s : State) : (s.setReply w).schedule = s.schedule := rfl
@[simp] theorem State.setReply_reply (w : Word) (s : State) : (s.setReply w).reply = some w := rfl
@[simp] theorem State.setReply_drawCount (w : Word) (s : State) : (s.setReply w).drawCount = s.drawCount := rfl

@[simp] theorem State.countDraw_params (s : State) : (s.countDraw).params = s.params := rfl
@[simp] theorem State.countDraw_full (s : State) : (s.countDraw).full = s.full := rfl
@[simp] theorem State.countDraw_half (s : State) : (s.countDraw).half = s.half := rfl
@[simp] theorem State.countDraw_buf (s : State) : (s.countDraw).buf = s.buf := rfl
@[simp] theorem State.countDraw_status (s : State) : (s.countDraw).status = s.status := rfl
@[simp] theorem State.countDraw_pins (s : State) : (s.countDraw).pins = s.pins := rfl
@[simp] theorem State.countDraw_seqEvents (s : State) : (s.countDraw).seqEvents = s.seqEvents := rfl
@[simp] theorem State.countDraw_seqPc (s : State) : (s.countDraw).seqPc = s.seqPc := rfl
@[simp] theorem State.countDraw_faulted (s : State) : (s.countDraw).faulted = s.faulted := rfl
@[simp] theorem State.countDraw_history (s : State) : (s.countDraw).history = s.history := rfl
@[simp] theorem State.countDraw_schedule (s : State) : (s.countDraw).schedule = s.schedule := rfl
@[simp] theorem State.countDraw_reply (s : State) : (s.countDraw).reply = s.reply := rfl
@[simp] theorem State.countDraw_drawCount (s : State) : (s.countDraw).drawCount = s.drawCount + 1 := rfl

@[simp] theorem State.writeCell_params (p : Fin 4) (v : Byte) (s : State) : (s.writeCell p v).params = s.params := rfl
@[simp] theorem State.writeCell_full (p : Fin 4) (v : Byte) (s : State) : (s.writeCell p v).full = s.full := rfl
@[simp] theorem State.writeCell_half (p : Fin 4) (v : Byte) (s : State) : (s.writeCell p v).half = s.half := rfl
@[simp] theorem State.writeCell_buf (p : Fin 4) (v : Byte) (s : State) : (s.writeCell p v).buf = s.buf.set p v := rfl
@[simp] theorem State.writeCell_status (p : Fin 4) (v : Byte) (s : State) : (s.writeCell p v).status = s.status := rfl
@[simp] theorem State.writeCell_pins (p : Fin 4) (v : Byte) (s : State) : (s.writeCell p v).pins = s.pins := rfl
@[simp] theorem State.writeCell_seqEvents (p : Fin 4) (v : Byte) (s : State) : (s.writeCell p v).seqEvents = s.seqEvents := rfl
@[simp] theorem State.writeCell_seqPc (p : Fin 4) (v : Byte) (s : State) : (s.writeCell p v).seqPc = s.seqPc := rfl
@[simp] theorem State.writeCell_faulted (p : Fin 4) (v : Byte) (s : State) : (s.writeCell p v).faulted = s.faulted := rfl
@[simp] theorem State.writeCell_history (p : Fin 4) (v : Byte) (s : State) : (s.writeCell p v).history = s.history := rfl
@[simp] theorem State.writeCell_schedule (p : Fin 4) (v : Byte) (s : State) : (s.writeCell p v).schedule = s.schedule := rfl
@[simp] theorem State.writeCell_reply (p : Fin 4) (v : Byte) (s : State) : (s.writeCell p v).reply = s.reply := rfl
@[simp] theorem State.writeCell_drawCount (p : Fin 4) (v : Byte) (s : State) : (s.writeCell p v).drawCount = s.drawCount := rfl

@[simp] theorem State.clearCells_params (s : State) : (s.clearCells).params = s.params := rfl
@[simp] theorem State.clearCells_full (s : State) : (s.clearCells).full = s.full := rfl
@[simp] theorem State.clearCells_half (s : State) : (s.clearCells).half = s.half := rfl
@[simp] theorem State.clearCells_buf (s : State) : (s.clearCells).buf = Vector.replicate 4 0 := rfl
@[simp] theorem State.clearCells_status (s : State) : (s.clearCells).status = s.status := rfl
@[simp] theorem State.clearCells_pins (s : State) : (s.clearCells).pins = s.pins := rfl
@[simp] theorem State.clearCells_seqEvents (s : State) : (s.clearCells).seqEvents = s.seqEvents := rfl
@[simp] theorem State.clearCells_seqPc (s : State) : (s.clearCells).seqPc = s.seqPc := rfl
@[simp] theorem State.clearCells_faulted (s : State) : (s.clearCells).faulted = s.faulted := rfl
@[simp] theorem State.clearCells_history (s : State) : (s.clearCells).history = s.history := rfl
@[simp] theorem State.clearCells_schedule (s : State) : (s.clearCells).schedule = s.schedule := rfl
@[simp] theorem State.clearCells_reply (s : State) : (s.clearCells).reply = s.reply := rfl
@[simp] theorem State.clearCells_drawCount (s : State) : (s.clearCells).drawCount = s.drawCount := rfl

@[simp] theorem State.accept_params (l : List Event) (s : State) : (s.accept l).params = s.params := rfl
@[simp] theorem State.accept_full (l : List Event) (s : State) : (s.accept l).full = s.full := rfl
@[simp] theorem State.accept_half (l : List Event) (s : State) : (s.accept l).half = s.half := rfl
@[simp] theorem State.accept_buf (l : List Event) (s : State) : (s.accept l).buf = s.buf := rfl
@[simp] theorem State.accept_status (l : List Event) (s : State) : (s.accept l).status = s.status.accepted := rfl
@[simp] theorem State.accept_pins (l : List Event) (s : State) : (s.accept l).pins = s.pins := rfl
@[simp] theorem State.accept_seqEvents (l : List Event) (s : State) : (s.accept l).seqEvents = l := rfl
@[simp] theorem State.accept_seqPc (l : List Event) (s : State) : (s.accept l).seqPc = 0 := rfl
@[simp] theorem State.accept_faulted (l : List Event) (s : State) : (s.accept l).faulted = s.faulted := rfl
@[simp] theorem State.accept_history (l : List Event) (s : State) : (s.accept l).history = s.history := rfl
@[simp] theorem State.accept_schedule (l : List Event) (s : State) : (s.accept l).schedule = s.schedule := rfl
@[simp] theorem State.accept_reply (l : List Event) (s : State) : (s.accept l).reply = s.reply := rfl
@[simp] theorem State.accept_drawCount (l : List Event) (s : State) : (s.accept l).drawCount = s.drawCount := rfl

@[simp] theorem State.reject_params (c : Cause) (s : State) : (s.reject c).params = s.params := rfl
@[simp] theorem State.reject_full (c : Cause) (s : State) : (s.reject c).full = s.full := rfl
@[simp] theorem State.reject_half (c : Cause) (s : State) : (s.reject c).half = s.half := rfl
@[simp] theorem State.reject_buf (c : Cause) (s : State) : (s.reject c).buf = s.buf := rfl
@[simp] theorem State.reject_status (c : Cause) (s : State) : (s.reject c).status = s.status.rejected c := rfl
@[simp] theorem State.reject_pins (c : Cause) (s : State) : (s.reject c).pins = s.pins := rfl
@[simp] theorem State.reject_seqEvents (c : Cause) (s : State) : (s.reject c).seqEvents = s.seqEvents := rfl
@[simp] theorem State.reject_seqPc (c : Cause) (s : State) : (s.reject c).seqPc = s.seqPc := rfl
@[simp] theorem State.reject_faulted (c : Cause) (s : State) : (s.reject c).faulted = s.faulted := rfl
@[simp] theorem State.reject_history (c : Cause) (s : State) : (s.reject c).history = s.history := rfl
@[simp] theorem State.reject_schedule (c : Cause) (s : State) : (s.reject c).schedule = s.schedule := rfl
@[simp] theorem State.reject_reply (c : Cause) (s : State) : (s.reject c).reply = s.reply := rfl
@[simp] theorem State.reject_drawCount (c : Cause) (s : State) : (s.reject c).drawCount = s.drawCount := rfl

@[simp] theorem State.overrun_params (s : State) : (s.overrun).params = s.params := rfl
@[simp] theorem State.overrun_full (s : State) : (s.overrun).full = s.full := rfl
@[simp] theorem State.overrun_half (s : State) : (s.overrun).half = s.half := rfl
@[simp] theorem State.overrun_buf (s : State) : (s.overrun).buf = s.buf := rfl
@[simp] theorem State.overrun_status (s : State) : (s.overrun).status = s.status := rfl
@[simp] theorem State.overrun_pins (s : State) : (s.overrun).pins = s.pins := rfl
@[simp] theorem State.overrun_seqEvents (s : State) : (s.overrun).seqEvents = s.seqEvents := rfl
@[simp] theorem State.overrun_seqPc (s : State) : (s.overrun).seqPc = s.seqPc := rfl
@[simp] theorem State.overrun_faulted (s : State) : (s.overrun).faulted = true := rfl
@[simp] theorem State.overrun_history (s : State) : (s.overrun).history = s.history := rfl
@[simp] theorem State.overrun_schedule (s : State) : (s.overrun).schedule = s.schedule := rfl
@[simp] theorem State.overrun_reply (s : State) : (s.overrun).reply = s.reply := rfl
@[simp] theorem State.overrun_drawCount (s : State) : (s.overrun).drawCount = s.drawCount := rfl

@[simp] theorem State.applyReset_params (s : State) : (s.applyReset).params = s.params := rfl
@[simp] theorem State.applyReset_full (s : State) : (s.applyReset).full = s.params.resetFull := rfl
@[simp] theorem State.applyReset_half (s : State) : (s.applyReset).half = s.params.resetHalf := rfl
@[simp] theorem State.applyReset_buf (s : State) : (s.applyReset).buf = Vector.replicate 4 0 := rfl
@[simp] theorem State.applyReset_status (s : State) : (s.applyReset).status = ⟨false, .none, false, false, false⟩ := rfl
@[simp] theorem State.applyReset_pins (s : State) : (s.applyReset).pins = Pins.idle := rfl
@[simp] theorem State.applyReset_seqEvents (s : State) : (s.applyReset).seqEvents = [] := rfl
@[simp] theorem State.applyReset_seqPc (s : State) : (s.applyReset).seqPc = 0 := rfl
@[simp] theorem State.applyReset_faulted (s : State) : (s.applyReset).faulted = s.faulted := rfl
@[simp] theorem State.applyReset_history (s : State) : (s.applyReset).history = s.history := rfl
@[simp] theorem State.applyReset_schedule (s : State) : (s.applyReset).schedule = s.schedule := rfl
@[simp] theorem State.applyReset_reply (s : State) : (s.applyReset).reply = s.reply := rfl
@[simp] theorem State.applyReset_drawCount (s : State) : (s.applyReset).drawCount = s.drawCount := rfl

@[simp] theorem Status.accepted_rej (t : Status) : t.accepted.rej = false := rfl
@[simp] theorem Status.accepted_cause (t : Status) : t.accepted.cause = .none := rfl
@[simp] theorem Status.accepted_ackValid (t : Status) : t.accepted.ackValid = t.ackValid := rfl
@[simp] theorem Status.accepted_ackA (t : Status) : t.accepted.ackA = t.ackA := rfl
@[simp] theorem Status.accepted_ackD (t : Status) : t.accepted.ackD = t.ackD := rfl

@[simp] theorem Status.rejected_rej (c : Cause) (t : Status) : (t.rejected c).rej = true := rfl
@[simp] theorem Status.rejected_cause (c : Cause) (t : Status) : (t.rejected c).cause = c := rfl
@[simp] theorem Status.rejected_ackValid (c : Cause) (t : Status) : (t.rejected c).ackValid = t.ackValid := rfl
@[simp] theorem Status.rejected_ackA (c : Cause) (t : Status) : (t.rejected c).ackA = t.ackA := rfl
@[simp] theorem Status.rejected_ackD (c : Cause) (t : Status) : (t.rejected c).ackD = t.ackD := rfl

/-- A Sample leaves REJ and CAUSE (R26, R110). -/
@[simp] theorem Status.sampled_rej (k : AckSlot) (d : Bool) (t : Status) : (t.sampled k d).rej = t.rej := by
  cases k <;> rfl

@[simp] theorem Status.sampled_cause (k : AckSlot) (d : Bool) (t : Status) : (t.sampled k d).cause = t.cause := by
  cases k <;> rfl

end Sys2Proof.Machine
end

