-- ==== Sys2Proof/Laws/Ops.lean ====
section
/-! SUPPORT. Everything the shared operations can do: BUF as four cells, the gate of a CMD write, and BUSY after an
update. -/

namespace Sys2Proof.Machine

/-- A read after a write to the same cell gives the value written. -/
@[simp] theorem State.cell_writeCell_self (p : Fin 4) (v : Byte) (s : State) : (s.writeCell p v).cell p = v := by
  simp [State.cell]

/-- A write leaves every other cell alone. -/
theorem State.cell_writeCell_of_ne {p q : Fin 4} (h : q ≠ p) (v : Byte) (s : State) :
    (s.writeCell p v).cell q = s.cell q := by
  have h' : p.val ≠ q.val := fun e => h (Fin.ext e.symm)
  simp [State.cell, h']

theorem State.cell_writeCell (p q : Fin 4) (v : Byte) (s : State) :
    (s.writeCell p v).cell q = if q = p then v else s.cell q := by
  split
  · next h => subst h; simp
  · next h => exact State.cell_writeCell_of_ne h v s

@[simp] theorem State.cell_clearCells (q : Fin 4) (s : State) : s.clearCells.cell q = 0 := by
  simp [State.cell]

/-- An update that leaves BUF leaves every cell. -/
theorem State.cell_congr {s t : State} (h : t.buf = s.buf) (p : Fin 4) : t.cell p = s.cell p := by
  simp [State.cell, h]

/-- BUSY depends on the sequencer only. -/
theorem State.busy_congr {s t : State} (he : t.seqEvents = s.seqEvents) (hp : t.seqPc = s.seqPc) :
    t.busy = s.busy := by
  simp [State.busy, he, hp]

/-- After acceptance BUSY is 1 exactly when the list has an event (R30). -/
@[simp] theorem State.busy_accept (l : List Event) (s : State) : (s.accept l).busy = decide (l ≠ []) := by
  cases l <;> simp [State.busy]

@[simp] theorem State.busy_reject (c : Cause) (s : State) : (s.reject c).busy = s.busy := rfl
@[simp] theorem State.busy_overrun (s : State) : s.overrun.busy = s.busy := rfl
@[simp] theorem State.busy_setSchedule (l : List Turn) (s : State) : (s.setSchedule l).busy = s.busy := rfl
@[simp] theorem State.busy_setReply (w : Word) (s : State) : (s.setReply w).busy = s.busy := rfl
@[simp] theorem State.busy_applyReset (s : State) : s.applyReset.busy = false := rfl

theorem whenEnabled_of_enabled {s : State} (h : s.faulted = false) (r : Result) : whenEnabled s r = r := by
  simp [whenEnabled, h]

theorem whenEnabled_of_faulted {s : State} (h : s.faulted = true) (r : Result) :
    whenEnabled s r = .fault .hostOverrun := by
  simp [whenEnabled, h]

/-- A step that comes through the gate was enabled. -/
theorem whenEnabled_eq_next {s t : State} {r : Result} (h : whenEnabled s r = .next t) :
    s.faulted = false ∧ r = .next t := by
  unfold whenEnabled at h
  split at h
  · cases h
  · next hf => exact ⟨by simpa using hf, h⟩

/-- A CMD write to an idle block has the command's result (R149). -/
theorem onCmdWrite_of_idle {s : State} (hf : s.faulted = false) (hb : s.busy = false) (r : Result) :
    onCmdWrite s r = r := by
  simp [onCmdWrite, whenEnabled, hf, hb]

/-- A CMD write to a busy block is an overrun, whatever the word (R202, R203). -/
theorem onCmdWrite_of_busy {s : State} (hf : s.faulted = false) (hb : s.busy = true) (r : Result) :
    onCmdWrite s r = .next s.overrun := by
  simp [onCmdWrite, whenEnabled, hf, hb]

theorem onCmdWrite_of_faulted {s : State} (hf : s.faulted = true) (r : Result) :
    onCmdWrite s r = .fault .hostOverrun := by
  simp [onCmdWrite, whenEnabled, hf]

/-- Everything a CMD write can do, when it answers a next state: an overrun, or the command's result. -/
theorem onCmdWrite_eq_next {s t : State} {r : Result} (h : onCmdWrite s r = .next t) :
    s.faulted = false ∧ (s.busy = true ∧ t = s.overrun ∨ s.busy = false ∧ r = .next t) := by
  obtain ⟨hf, h⟩ := whenEnabled_eq_next h
  refine ⟨hf, ?_⟩
  split at h
  · next hb => exact .inl ⟨hb, by cases h; rfl⟩
  · next hb => exact .inr ⟨by simpa using hb, h⟩

/-- The gate of a command inside the gate of the CMD write that brought it is the same gate. -/
@[simp] theorem onCmdWrite_onCmdWrite (s : State) (r : Result) : onCmdWrite s (onCmdWrite s r) = onCmdWrite s r := by
  unfold onCmdWrite whenEnabled
  split
  · rfl
  · split <;> rfl

end Sys2Proof.Machine
end

