-- ==== Sys2Proof/Laws/Engine.lean ====
section
/-! SUPPORT. The engine: what performing an event leaves alone, what one turn can do, how a list of events composes, and
what the receiver of Safety.lean makes of the pieces of a frame. -/

namespace Sys2Proof.Machine

@[simp] theorem State.setPins_self (s : State) : s.setPins s.pins = s := rfl

/-- The latches after an event are a function of the latches and the event alone (R110, R122). -/
@[simp] theorem State.perform_pins (e : Event) (s : State) : (s.perform e).pins = s.pins.after e := by cases e <;> rfl
@[simp] theorem State.perform_params (e : Event) (s : State) : (s.perform e).params = s.params := by cases e <;> rfl
@[simp] theorem State.perform_full (e : Event) (s : State) : (s.perform e).full = s.full := by cases e <;> rfl
@[simp] theorem State.perform_half (e : Event) (s : State) : (s.perform e).half = s.half := by cases e <;> rfl
@[simp] theorem State.perform_buf (e : Event) (s : State) : (s.perform e).buf = s.buf := by cases e <;> rfl
@[simp] theorem State.perform_rej (e : Event) (s : State) : (s.perform e).status.rej = s.status.rej := by
  cases e <;> simp [State.perform]
@[simp] theorem State.perform_cause (e : Event) (s : State) : (s.perform e).status.cause = s.status.cause := by
  cases e <;> simp [State.perform]
@[simp] theorem State.perform_seqEvents (e : Event) (s : State) : (s.perform e).seqEvents = s.seqEvents := by
  cases e <;> rfl
@[simp] theorem State.perform_seqPc (e : Event) (s : State) : (s.perform e).seqPc = s.seqPc := by cases e <;> rfl
@[simp] theorem State.perform_faulted (e : Event) (s : State) : (s.perform e).faulted = s.faulted := by
  cases e <;> rfl
@[simp] theorem State.perform_history (e : Event) (s : State) : (s.perform e).history = s.history := by
  cases e <;> rfl
@[simp] theorem State.perform_schedule (e : Event) (s : State) : (s.perform e).schedule = s.schedule := by
  cases e <;> rfl
@[simp] theorem State.perform_reply (e : Event) (s : State) : (s.perform e).reply = s.reply := by cases e <;> rfl

/-- Everything performing an event does to STATUS: a Sample writes its slot, and every other event nothing (R110). -/
theorem State.perform_status (e : Event) (s : State) :
    (s.perform e).status = match e with
      | .sample k => s.status.sampled k (Config.draw s.drawCount)
      | .setClk _ | .setDio _ | .dioIn | .dioOut | .wait _ => s.status := by
  cases e <;> rfl

@[simp] theorem State.performNext_params (e : Event) (s : State) : (s.performNext e).params = s.params := by
  simp [State.performNext]
@[simp] theorem State.performNext_full (e : Event) (s : State) : (s.performNext e).full = s.full := by
  simp [State.performNext]
@[simp] theorem State.performNext_half (e : Event) (s : State) : (s.performNext e).half = s.half := by
  simp [State.performNext]
@[simp] theorem State.performNext_buf (e : Event) (s : State) : (s.performNext e).buf = s.buf := by
  simp [State.performNext]
@[simp] theorem State.performNext_status (e : Event) (s : State) :
    (s.performNext e).status = (s.perform e).status := by simp [State.performNext]
@[simp] theorem State.performNext_pins (e : Event) (s : State) : (s.performNext e).pins = s.pins.after e := by
  simp [State.performNext]
@[simp] theorem State.performNext_seqEvents (e : Event) (s : State) : (s.performNext e).seqEvents = s.seqEvents := by
  simp [State.performNext]
@[simp] theorem State.performNext_seqPc (e : Event) (s : State) : (s.performNext e).seqPc = s.seqPc + 1 := by
  simp [State.performNext]
@[simp] theorem State.performNext_faulted (e : Event) (s : State) : (s.performNext e).faulted = s.faulted := by
  simp [State.performNext]
@[simp] theorem State.performNext_history (e : Event) (s : State) :
    (s.performNext e).history = s.history ++ [⟨e, s.drawFor e⟩] := by simp [State.performNext]
@[simp] theorem State.performNext_schedule (e : Event) (s : State) : (s.performNext e).schedule = s.schedule := by
  simp [State.performNext]
@[simp] theorem State.performNext_reply (e : Event) (s : State) : (s.performNext e).reply = s.reply := by
  simp [State.performNext]
@[simp] theorem State.performNext_drawCount (e : Event) (s : State) :
    (s.performNext e).drawCount = (s.perform e).drawCount := by simp [State.performNext]

@[simp] theorem State.performNext_cell (e : Event) (s : State) (p : Fin 4) : (s.performNext e).cell p = s.cell p :=
  State.cell_congr (by simp) p

/-- With BUSY = 0 no event is left. -/
theorem State.remaining_of_idle {s : State} (h : s.busy = false) : s.remaining = [] := by
  simpa [State.remaining, State.busy] using h

/-- An event at SEQ_PC is the first of those that remain, and performing it leaves the others. -/
theorem State.remaining_cons {s : State} {e : Event} (h : s.seqEvents[s.seqPc]? = some e) :
    s.remaining = e :: (s.performNext e).remaining := by
  obtain ⟨hlt, rfl⟩ := List.getElem?_eq_some_iff.mp h
  simp [State.remaining]

/-- Everything one turn of the engine can do: perform the event at SEQ_PC, or, with BUSY = 0, nothing (R121, R213). -/
theorem engineTurn_cases (s : State) :
    (∃ e, s.busy = true ∧ s.seqEvents[s.seqPc]? = some e ∧ engineTurn s = .next (s.performNext e)) ∨
    (s.busy = false ∧ engineTurn s = .next s) := by
  unfold engineTurn
  cases h : s.seqEvents[s.seqPc]? with
  | none => exact .inr ⟨by simpa [State.busy] using h, rfl⟩
  | some e =>
    obtain ⟨hlt, -⟩ := List.getElem?_eq_some_iff.mp h
    exact .inl ⟨e, by simpa [State.busy] using hlt, rfl, rfl⟩

/-- The parts of a frame's list, for lemmas that go part by part. -/
theorem bitsMsbFirst_eq (x : Byte) : bitsMsbFirst x =
    [x.getLsbD 7, x.getLsbD 6, x.getLsbD 5, x.getLsbD 4, x.getLsbD 3, x.getLsbD 2, x.getLsbD 1, x.getLsbD 0] := rfl

@[simp] theorem Pins.afterAll_append (p : Pins) (l m : List Event) :
    p.afterAll (l ++ m) = (p.afterAll l).afterAll m := by simp [Pins.afterAll]

@[simp] theorem Receiver.seeAll_append (o : Receiver) (l m : List Event) :
    o.seeAll (l ++ m) = (o.seeAll l).seeAll m := by simp [Receiver.seeAll]

@[simp] theorem State.performAll_append (s : State) (l m : List Event) :
    s.performAll (l ++ m) = (s.performAll l).performAll m := by simp [State.performAll]

@[simp] theorem duration_append (l m : List Event) : duration (l ++ m) = duration l + duration m := by
  simp [duration]

theorem drivesInTurn_append (p : Pins) (l m : List Event) :
    drivesInTurn p (l ++ m) = (drivesInTurn p l && drivesInTurn (p.afterAll l) m) := by
  induction l generalizing p with
  | nil => simp [drivesInTurn, Pins.afterAll]
  | cons e l ih => cases e <;> simp [drivesInTurn, Pins.afterAll, ih, Bool.and_assoc]

/-- The eight bits of a byte, read most significant first, are the byte. -/
theorem byteOfBits_bitsMsbFirst (x : Byte) : byteOfBits (bitsMsbFirst x) = x := by
  revert x; decide

/-- The parameters of the machine meet the spec's constraints: the platform's do, or the defaults stand in. -/
theorem params_ok : Config.params.ok = true := by
  unfold Config.params
  split
  · assumption
  · decide

/-- A position operand names the cell of its two low bits (R55). -/
theorem cellIndex_val (pos : Byte) : (cellIndex pos).val = pos.toNat % 4 := by
  simp [cellIndex]

/-- The machine's cell and the claims' cell of a position are the same (R55). -/
theorem cellIndex_eq_positionOf (pos : Byte) : cellIndex pos = positionOf pos := Fin.ext (cellIndex_val pos)

/-- The engine's step (R121): on its own, on a turn the host gives it, or while a polling host waits. -/
theorem step_of_event {s : State} {e : Event} {rest : List Turn} (hf : s.faulted = false)
    (he : s.seqEvents[s.seqPc]? = some e)
    (h : s.schedule = [] ∧ rest = [] ∨ s.schedule = .engine :: rest ∨
      (∃ l, s.schedule = .waitIdle :: l) ∧ rest = s.schedule) :
    step s = .next ((s.setSchedule rest).performNext e) := by
  have ht : ∀ l, engineTurn (s.setSchedule l) = .next ((s.setSchedule l).performNext e) := fun l => by
    simp [engineTurn, he]
  have hb : s.busy = true := by
    obtain ⟨hlt, -⟩ := List.getElem?_eq_some_iff.mp he
    simpa [State.busy] using hlt
  obtain ⟨h, rfl⟩ | h | ⟨⟨l, h⟩, rfl⟩ := h
  · have hs : s.setSchedule [] = s := by rw [← h]; rfl
    unfold step
    rw [h]
    exact (whenEnabled_of_enabled hf _).trans (by rw [← ht [], hs])
  · unfold step
    rw [h]
    exact (whenEnabled_of_enabled (s := s.setSchedule rest) hf _).trans (ht rest)
  · have hw : step s = whenEnabled (s.setSchedule l)
        (if s.busy then engineTurn (s.setSchedule (.waitIdle :: l)) else .next (s.setSchedule l)) := by
      unfold step; rw [h]; rfl
    rw [hw, whenEnabled_of_enabled (by exact hf), hb, h]
    exact ht (.waitIdle :: l)

@[simp] theorem frame_length (full half : Word) (a x : Byte) : (frame full half a x).length = 121 := rfl

/-- A frame leaves the latches idle, wherever they start (R119). -/
@[simp] theorem Pins.afterAll_frame (p : Pins) (full half : Word) (a x : Byte) :
    p.afterAll (frame full half a x) = Pins.idle := rfl

/-- From the idle latches a frame drives the data line only while it is an output (R120). -/
@[simp] theorem drivesInTurn_frame (full half : Word) (a x : Byte) :
    drivesInTurn Pins.idle (frame full half a x) = true := rfl

/-- Performing a list leaves every register but the latches, STATUS and SEQ_PC, and adds the list to HISTORY. -/
theorem State.performAll_fields (l : List Event) (s : State) :
    (s.performAll l).params = s.params ∧ (s.performAll l).full = s.full ∧ (s.performAll l).half = s.half ∧
    (s.performAll l).buf = s.buf ∧ (s.performAll l).pins = s.pins.afterAll l ∧
    (s.performAll l).seqEvents = s.seqEvents ∧ (s.performAll l).seqPc = s.seqPc + l.length ∧
    (s.performAll l).faulted = s.faulted ∧ (s.performAll l).schedule = s.schedule ∧
    (s.performAll l).history.map Entry.event = s.history.map Entry.event ++ l := by
  induction l generalizing s with
  | nil => simp [State.performAll, Pins.afterAll]
  | cons e l ih =>
    have h := ih (s.performNext e)
    simp only [State.performNext_params, State.performNext_full, State.performNext_half, State.performNext_buf,
      State.performNext_pins, State.performNext_seqEvents, State.performNext_seqPc, State.performNext_faulted,
      State.performNext_history, State.performNext_schedule] at h
    obtain ⟨h1, h2, h3, h4, h5, h6, h7, h8, h9, h10⟩ := h
    exact ⟨h1, h2, h3, h4, h5, h6, by simp only [State.performAll, List.foldl_cons, List.length_cons] at h7 ⊢; omega,
      h8, h9, by simpa [State.performAll] using h10⟩

/-- A data bit reaches the receiver as one bit (R113). -/
theorem Receiver.seeAll_bit (full half : Word) (d v : Bool) (bits : List Bool) (frames : List (Byte × Byte)) :
    Receiver.seeAll ⟨false, d, true, true, bits, frames⟩ (bitEvents full half v) =
      ⟨false, v, true, true, bits ++ [v], frames⟩ := by
  cases d <;> cases v <;> rfl

/-- An acknowledgment slot reaches the receiver as one bit of the released line, and leaves the line low (R114). -/
theorem Receiver.seeAll_ack (full half : Word) (k : AckSlot) (d : Bool) (bits : List Bool)
    (frames : List (Byte × Byte)) :
    Receiver.seeAll ⟨false, d, true, true, bits, frames⟩ (ackEvents full half k) =
      ⟨false, false, true, true, bits ++ [true], frames⟩ := by
  cases d <;> rfl

/-- Eight bits and an acknowledgment slot reach the receiver in order (R115). -/
theorem Receiver.seeAll_byte (full half : Word) (x : Byte) (k : AckSlot) (d : Bool) (bits : List Bool)
    (frames : List (Byte × Byte)) :
    Receiver.seeAll ⟨false, d, true, true, bits, frames⟩ (byteEvents full half x k) =
      ⟨false, false, true, true, bits ++ bitsMsbFirst x ++ [true], frames⟩ := by
  have several : ∀ (vs : List Bool) (d : Bool) (bits : List Bool), ∃ d', Receiver.seeAll
      ⟨false, d, true, true, bits, frames⟩ (vs.flatMap (bitEvents full half)) =
        ⟨false, d', true, true, bits ++ vs, frames⟩ := by
    intro vs
    induction vs with
    | nil => exact fun d bits => ⟨d, by simp [Receiver.seeAll]⟩
    | cons v vs ih =>
      intro d bits
      obtain ⟨d', h⟩ := ih v (bits ++ [v])
      exact ⟨d', by rw [List.flatMap_cons, Receiver.seeAll_append, Receiver.seeAll_bit, h]; simp⟩
  obtain ⟨d', h⟩ := several (bitsMsbFirst x) d bits
  rw [byteEvents, Receiver.seeAll_append, h, Receiver.seeAll_ack]

/-- A host that may write a command at once may also write it when none is in progress. -/
theorem serialised_of_pending {l : List Turn} (h : serialised true l = true) (b : Bool) : serialised b l = true := by
  cases b with
  | true => exact h
  | false =>
    induction l with
    | nil => rfl
    | cons t l ih =>
      cases t with
      | write offset size w =>
        simp only [serialised, Bool.and_eq_true] at h ⊢
        refine ⟨h.1, ?_⟩
        cases hr : HostReg.at? offset with
        | none => simp [hr] at h
        | some r => cases r <;> simp_all
      | read offset size =>
        simp only [serialised, Bool.and_eq_true] at h ⊢
        refine ⟨h.1, ?_⟩
        cases hr : HostReg.at? offset with
        | none => simp [hr] at h
        | some r => cases r <;> simp_all
      | waitIdle => exact h
      | engine => exact ih h
      | reset => exact h

end Sys2Proof.Machine
end

