-- ==== Sys2Proof/Laws/PerInstr.lean ====
section
/-! SUPPORT. The family TableRow: the word of a command is covered by the row of spec/opcode_table.json that has the
command's mnemonic (R72). One lemma per constructor. -/

namespace Sys2Proof.Laws.TableRow

/-- The command's word is one of its row's words. -/
def Statement (i : Instr) : Prop := ∃ r ∈ opcodeRows, r.mnemonic = mnemonicOf i ∧ r.covers (encode i) = true

/-- A format P word has Z = 0, so it agrees with its row down to bit 16. -/
theorem formatP_high (i : Instr) (pos low : Byte) (h : operandBits i = 0#8 ++ pos ++ low) :
    (encode i).toNat / 2 ^ 16 * 2 ^ 16 = (opOf i).toNat * 2 ^ 24 := by
  have hp := pos.isLt
  have hl := low.isLt
  have hn : (operandBits i).toNat = pos.toNat * 2 ^ 8 + low.toNat := by rw [h]; exact formatP_toNat pos low
  rw [encode_toNat, hn]; omega

theorem setSpeed (rate : Nat) : Statement (.setSpeed rate) := by
  refine ⟨⟨"SET_SPEED", 0xFF000000, 0x01000000⟩, by simp [opcodeRows], rfl, ?_⟩
  have hb := (operandBits (.setSpeed rate)).isLt
  rw [OpcodeRow.covers_iff _ _ 24 (by decide), encode_toNat]
  simp only [opOf, BitVec.reduceToNat]; omega

theorem writeRaw (pos pattern : Byte) : Statement (.writeRaw pos pattern) := by
  refine ⟨⟨"WRITE_RAW", 0xFFFF0000, 0x02000000⟩, by simp [opcodeRows], rfl, ?_⟩
  rw [OpcodeRow.covers_iff _ _ 16 (by decide), formatP_high _ pos pattern rfl]; simp [opOf]

theorem writeChar (pos code : Byte) : Statement (.writeChar pos code) := by
  refine ⟨⟨"WRITE_CHAR", 0xFFFF0000, 0x03000000⟩, by simp [opcodeRows], rfl, ?_⟩
  rw [OpcodeRow.covers_iff _ _ 16 (by decide), formatP_high _ pos code rfl]; simp [opOf]

theorem writeCharWithPoint (pos code : Byte) : Statement (.writeCharWithPoint pos code) := by
  refine ⟨⟨"WRITE_CHAR_WITH_POINT", 0xFFFF0000, 0x04000000⟩, by simp [opcodeRows], rfl, ?_⟩
  rw [OpcodeRow.covers_iff _ _ 16 (by decide), formatP_high _ pos code rfl]; simp [opOf]

theorem displayOn (bright : BitVec 3) : Statement (.displayOn bright) := by
  refine ⟨⟨"DISPLAY_ON", 0xFFFFFFF8, 0x05000000⟩, by simp [opcodeRows], rfl, ?_⟩
  have hb := bright.isLt
  have hn : (operandBits (.displayOn bright)).toNat = bright.toNat := formatB_toNat bright
  rw [OpcodeRow.covers_iff _ _ 3 (by decide), encode_toNat, hn]
  simp only [opOf, BitVec.reduceToNat]; omega

theorem displayOff : Statement .displayOff := by
  refine ⟨⟨"DISPLAY_OFF", 0xFFFFFFFF, 0x06000000⟩, by simp [opcodeRows], rfl, by decide⟩

theorem displayClear : Statement .displayClear := by
  refine ⟨⟨"DISPLAY_CLEAR", 0xFFFFFFFF, 0x07000000⟩, by simp [opcodeRows], rfl, by decide⟩

end Sys2Proof.Laws.TableRow
end

