-- ==== Sys2Proof/Laws/Step.lean ====
section
/-! SUPPORT. Everything an accepted command, a CMD write and a step can do: one inversion lemma each, which the
invariants cite. -/

namespace Sys2Proof.Machine

/-- Everything a command does to an idle block (R101, R102, R150 to R156): the timing pair and an empty list, a rejected
rate, one cell and its frame, a control frame, or four cleared cells and their frames. -/
theorem exec_cases {i : Instr} {s t : State} (hf : s.faulted = false) (hb : s.busy = false)
    (h : exec i s = .next t) :
    (i = .setSpeed 0 ∧ t = s.reject .rateZero) ∨
    (∃ rate, i = .setSpeed rate ∧ rate ≠ 0 ∧
      t = (s.setTiming (fullOf (periodOf rate)) (halfOf (periodOf rate))).accept []) ∨
    (∃ p v, t = s.storeAndSend p v) ∨ (∃ v, t = s.sendControl v) ∨
    (i = .displayClear ∧ t = s.clearCells.accept s.clearFrames) := by
  cases i with
  | setSpeed rate =>
    simp only [exec, execSetSpeed, onCmdWrite_of_idle hf hb] at h
    split at h
    · next h0 => exact .inl ⟨by rw [h0], by cases h; rfl⟩
    · next h0 => exact .inr (.inl ⟨rate, rfl, h0, by cases h; rfl⟩)
  | writeRaw pos v =>
    simp only [exec, execWriteRaw, onCmdWrite_of_idle hf hb] at h
    exact .inr (.inr (.inl ⟨_, _, by cases h; rfl⟩))
  | writeChar pos c =>
    simp only [exec, execWriteChar, onCmdWrite_of_idle hf hb] at h
    exact .inr (.inr (.inl ⟨_, _, by cases h; rfl⟩))
  | writeCharWithPoint pos c =>
    simp only [exec, execWriteCharWithPoint, onCmdWrite_of_idle hf hb] at h
    exact .inr (.inr (.inl ⟨_, _, by cases h; rfl⟩))
  | displayOn b =>
    simp only [exec, execDisplayOn, onCmdWrite_of_idle hf hb] at h
    exact .inr (.inr (.inr (.inl ⟨_, by cases h; rfl⟩)))
  | displayOff =>
    simp only [exec, execDisplayOff, onCmdWrite_of_idle hf hb] at h
    exact .inr (.inr (.inr (.inl ⟨_, by cases h; rfl⟩)))
  | displayClear =>
    simp only [exec, execDisplayClear, onCmdWrite_of_idle hf hb] at h
    exact .inr (.inr (.inr (.inr ⟨rfl, by cases h; rfl⟩)))

/-- Every command passes the gate of the CMD write before anything else. -/
theorem exec_gated (i : Instr) (s : State) : onCmdWrite s (exec i s) = exec i s := by
  cases i <;> exact onCmdWrite_onCmdWrite s _

/-- A CMD write of a command's word runs the command (R149). -/
theorem submit_of_ok {w : Word} {i : Instr} (h : decode w = .ok i) (s : State) : submit w s = exec i s := by
  simp only [submit, h, exec_gated]

/-- A CMD write of any other word to an idle block is rejected (R73, R149). -/
theorem submit_of_error {w : Word} {e : IllegalEncoding} (h : decode w = .error e) {s : State}
    (hf : s.faulted = false) (hb : s.busy = false) : submit w s = .next (s.reject .illegalEncoding) := by
  simp only [submit, h, onCmdWrite_of_idle hf hb]

/-- Everything a CMD write can do, when it answers a next state (R149, R202). -/
theorem submit_cases {w : Word} {s t : State} (h : submit w s = .next t) :
    s.faulted = false ∧
    ((s.busy = true ∧ t = s.overrun) ∨
     (s.busy = false ∧ (∃ e, decode w = .error e) ∧ t = s.reject .illegalEncoding) ∨
     (s.busy = false ∧ ∃ i, decode w = .ok i ∧ exec i s = .next t)) := by
  obtain ⟨hf, ⟨hb, ht⟩ | ⟨hb, hr⟩⟩ := onCmdWrite_eq_next h
  · exact ⟨hf, .inl ⟨hb, ht⟩⟩
  · refine ⟨hf, .inr ?_⟩
    cases hd : decode w with
    | ok i => rw [hd] at hr; exact .inr ⟨hb, i, rfl, hr⟩
    | error e => rw [hd] at hr; exact .inl ⟨hb, ⟨e, rfl⟩, by cases hr; rfl⟩

/-- A CMD write is the host's next turn (R149): the step submits the word, with the turn taken off the schedule. -/
theorem step_of_cmdWrite {s : State} {w : Word} {rest : List Turn} (hs : s.schedule = .write 0 4 w :: rest) :
    step s = submit w (s.setSchedule rest) := by
  unfold step
  rw [hs]
  show whenEnabled (s.setSchedule rest) (onCmdWrite (s.setSchedule rest) _) = onCmdWrite (s.setSchedule rest) _
  unfold onCmdWrite whenEnabled
  split <;> rfl

/-- An aligned word at offset 0 is the only access that reaches CMD. -/
theorem HostReg.at?_eq_cmd {offset : Nat} (h : HostReg.at? offset = some .cmd) : offset = 0 := by
  unfold HostReg.at? at h
  repeat' split at h
  all_goals first | assumption | cases h

/-- Everything a step can do, when it answers a next state: a reset, an event of the engine, nothing but the passing of
a turn, a read's reply, or a CMD write (R12, R121). -/
theorem step_cases {s t : State} (h : step s = .next t) :
    (∃ rest, s.schedule = .reset :: rest ∧ t = (s.setSchedule rest).applyReset) ∨
    (s.faulted = false ∧ ∀ rest, s.schedule ≠ .reset :: rest) ∧
    ((∃ l e, s.busy = true ∧ s.seqEvents[s.seqPc]? = some e ∧ t = (s.setSchedule l).performNext e) ∨
     (∃ l, t = s.setSchedule l) ∨
     (∃ l w, t = (s.setSchedule l).setReply w) ∨
     (∃ w rest, s.schedule = .write 0 4 w :: rest ∧ submit w (s.setSchedule rest) = .next t)) := by
  unfold step at h
  have turn : ∀ l, engineTurn (s.setSchedule l) = .next t →
      (∃ l e, s.busy = true ∧ s.seqEvents[s.seqPc]? = some e ∧ t = (s.setSchedule l).performNext e) ∨
      (∃ l, t = s.setSchedule l) := by
    intro l h
    obtain ⟨e, hb, he, ht⟩ | ⟨-, ht⟩ := engineTurn_cases (s.setSchedule l)
    · exact .inl ⟨l, e, hb, he, by rw [h] at ht; cases ht; rfl⟩
    · exact .inr ⟨l, by rw [h] at ht; cases ht; rfl⟩
  split at h
  · next hs =>
    obtain ⟨hf, h⟩ := whenEnabled_eq_next h
    refine .inr ⟨⟨hf, by simp [hs]⟩, ?_⟩
    have h' : engineTurn (s.setSchedule []) = .next t := by rw [← hs]; exact h
    rcases turn [] h' with h | h
    · exact .inl h
    · exact .inr (.inl h)
  · next tn rest hs =>
    cases tn with
    | reset => exact .inl ⟨rest, hs, by cases h; rfl⟩
    | engine =>
      obtain ⟨hf, h⟩ := whenEnabled_eq_next h
      refine .inr ⟨⟨hf, by simp [hs]⟩, ?_⟩
      rcases turn rest h with h | h
      · exact .inl h
      · exact .inr (.inl h)
    | waitIdle =>
      obtain ⟨hf, h⟩ := whenEnabled_eq_next h
      refine .inr ⟨⟨hf, by simp [hs]⟩, ?_⟩
      split at h
      · rcases turn (.waitIdle :: rest) h with h | h
        · exact .inl h
        · exact .inr (.inl h)
      · exact .inr (.inl ⟨rest, by cases h; rfl⟩)
    | read offset size =>
      obtain ⟨hf, h⟩ := whenEnabled_eq_next h
      refine .inr ⟨⟨hf, by simp [hs]⟩, .inr (.inr (.inl ?_))⟩
      unfold hostRead at h
      repeat' split at h
      all_goals first | (cases h; done) | skip
      exact ⟨rest, _, by cases h; rfl⟩
    | write offset size data =>
      obtain ⟨hf, hw⟩ := whenEnabled_eq_next h
      refine .inr ⟨⟨hf, by simp [hs]⟩, ?_⟩
      unfold hostWrite at hw
      split at hw
      · next ha =>
        simp only [alignedWord, Bool.and_eq_true, decide_eq_true_eq] at ha
        cases hr : HostReg.at? offset with
        | none => rw [hr] at hw; cases hw
        | some r =>
          rw [hr] at hw
          cases r with
          | cmd => exact .inr (.inr (.inr ⟨data, rest, by rw [hs, ha.1, HostReg.at?_eq_cmd hr], hw⟩))
          | status | full | half | bufWord | pins => exact .inr (.inl ⟨rest, by cases hw; rfl⟩)
      · cases hw

/-- A run goes on from the state its first step answers. -/
theorem run_succ_of_next {s t : State} (h : step s = .next t) (k : Nat) :
    Host.Core.run Sys2Proof.core (k + 1) s = Host.Core.run Sys2Proof.core k t := by
  have e := Host.Core.run.eq_2 Sys2Proof.core s k
  rw [show Sys2Proof.core.step s = .next t from h] at e
  exact e

end Sys2Proof.Machine
end

