-- ==== Sys2Proof/Tests/Slice0.lean ====
section
/-! SUPPORT. The model's own tests. Expected values come from the spec: its encodings (30_encoding), its worked vectors
(95_test_vectors), or its rules evaluated by hand; each test names its source. After them, for every obligation with
hypotheses, a concrete state and operands that meet all of them. -/

open Sys2Proof Sys2Proof.Machine

namespace Sys2Proof.Tests

/-- A block with the default parameters (D9, D10, D12) after SET_SPEED 100000: FULL = 5, HALF = 2. -/
def idle : State := { State.reset with params := Config.defaults, full := 5, half := 2 }

/-- The same block with two events of an idle condition left: BUSY = 1, the clock high and the data line low. -/
def ending : State :=
  { idle with seqEvents := idleEvents 5, seqPc := 2, pins := ⟨true, false, true⟩, buf := #v[0x3F, 0, 0, 0] }

/-- The same block with a Sample next in an acknowledgment slot: the clock high and the data line released. -/
def sampling (k : AckSlot) : State :=
  { idle with seqEvents := ackEvents 5 2 k ++ idleEvents 5, seqPc := 4, pins := ⟨true, true, false⟩ }

/-- What a field of the answered state is. -/
def after {α : Type} (f : State → α) : Result → Option α
  | .next s => some (f s)
  | .fault _ => none
  | .refused _ => none

/-- The host's next act. -/
def withTurn (s : State) (t : Turn) : State := s.setSchedule [t]

/-- Is the outcome a refusal with this reason? -/
def refusedWith (r : Refusal) : Result → Bool
  | .refused q => decide (q = r)
  | .next _ => false
  | .fault _ => false

/-! ## Well-formedness: the one check, at its bound (R71) -/

theorem test_rate_24_bits : (Instr.setSpeed 16777215).wellFormed = true := by decide
theorem test_rate_25_bits_is_ill_formed : (Instr.setSpeed 16777216).wellFormed = false := by decide

/-! ## Decoding: words written out from R70 to R73 and 95_test_vectors -/

/-- 0x01 | RATE: 95_test_vectors 2.1. -/
theorem test_decode_setSpeed : decode 0x0101E848 = .ok (.setSpeed 125000) := by decide
/-- 0x02 | 00 | POS 05 | PATTERN FF: 95_test_vectors 2.4. -/
theorem test_decode_writeRaw : decode 0x020005FF = .ok (.writeRaw 0x05 0xFF) := by decide
/-- 0x03 | 00 | POS 02 | CODE 2E: 95_test_vectors 2.5. -/
theorem test_decode_writeChar : decode 0x0300022E = .ok (.writeChar 0x02 0x2E) := by decide
/-- 0x04 | 00 | POS 02 | CODE 31: 95_test_vectors 2.6. -/
theorem test_decode_writeCharWithPoint : decode 0x04000231 = .ok (.writeCharWithPoint 0x02 0x31) := by decide
/-- 0x05 | 000000 | BRIGHT 7: 95_test_vectors 2.7. -/
theorem test_decode_displayOn : decode 0x05000007 = .ok (.displayOn 7) := by decide
/-- 0x06000000 and 0x07000000: 95_test_vectors 2.7. -/
theorem test_decode_displayOff : decode 0x06000000 = .ok .displayOff := by decide
theorem test_decode_displayClear : decode 0x07000000 = .ok .displayClear := by decide

/-- R73 at the bounds of each kind: OP 0x00, 0x08 and 0xFF; the ends of Z; bits 3 and 23 of DISPLAY_ON; bits 0 and 23 of
DISPLAY_OFF and DISPLAY_CLEAR. -/
theorem test_decode_illegal :
    decode 0x00000000 = .error .unassignedOp ∧ decode 0x08000000 = .error .unassignedOp ∧
    decode 0xFF000000 = .error .unassignedOp ∧ decode 0x02010000 = .error .reservedP ∧
    decode 0x04800000 = .error .reservedP ∧ decode 0x05000008 = .error .reservedB ∧
    decode 0x05800000 = .error .reservedB ∧ decode 0x06000001 = .error .reservedN ∧
    decode 0x07800000 = .error .reservedN := by decide

/-- 95_test_vectors 2.1 and 2.4 to 2.7, assembled. -/
theorem test_encode :
    encode (.setSpeed 166667) = 0x01028B0B ∧ encode (.writeRaw 0x13 0x49) = 0x02001349 ∧
    encode (.writeChar 4 0x62) = 0x03000462 ∧ encode (.writeCharWithPoint 0 0x41) = 0x04000041 ∧
    encode (.displayOn 3) = 0x05000003 ∧ encode .displayOff = 0x06000000 ∧
    encode .displayClear = 0x07000000 := by decide

/-- A table word of 32 bits; one given with its high byte only in the upper bits is cut (R74). -/
theorem test_decodeTableWord :
    decodeTableWord 32 0x020005FF = some (.writeRaw 5 0xFF) ∧ decodeTableWord 32 0x08000000 = none ∧
    decodeTableWord 64 0x106000000 = none := by decide

/-! ## SET_SPEED: 95_test_vectors 2.1, on both sides of the clamp -/

theorem test_setSpeed_3 :
    after (fun s => (s.full, s.half)) (exec (.setSpeed 3) idle) = some (166666, 83333) := by decide
theorem test_setSpeed_clamp :
    after (fun s => (s.full, s.half)) (exec (.setSpeed 250000) idle) = some (2, 1) ∧
    after (fun s => (s.full, s.half)) (exec (.setSpeed 333334) idle) = some (2, 1) ∧
    after (fun s => (s.full, s.half, s.statusWord)) (exec (.setSpeed 0) idle) = some (5, 2, 0x0A) := by decide

/-! ## The buffer commands: 95_test_vectors 2.4 to 2.6 -/

theorem test_writeRaw_masks_pos :
    after (·.buf) (exec (.writeRaw 5 0xFF) idle) = some #v[0, 0xFF, 0, 0] := by decide
theorem test_writeRaw_frame_ends :
    after (fun s => (s.seqEvents.length, s.seqEvents[10]?, s.seqEvents[61]?)) (exec (.writeRaw 5 0x80) idle) =
      some (121, some (.setDio true), some (.setDio true)) := by decide +kernel
theorem test_writeChar_glyph : after (·.buf) (exec (.writeChar 4 0x62) idle) = some #v[0x7C, 0, 0, 0] := by decide
theorem test_writeChar_point :
    after (·.buf) (exec (.writeChar 2 0x2E) { idle with buf := #v[0, 0, 0x06, 0] }) = some #v[0, 0, 0x86, 0] := by
  decide
theorem test_writeCharWithPoint_old_value_not_read :
    after (·.buf) (exec (.writeCharWithPoint 0 0x41) { idle with buf := #v[0x3F, 0, 0, 0] }) =
      some #v[0xF7, 0, 0, 0] := by decide
theorem test_writeCharWithPoint_point_is_no_glyph :
    after (·.buf) (exec (.writeCharWithPoint 0 0x2E) idle) = some #v[0x80, 0, 0, 0] := by decide
theorem test_displayClear :
    after (fun s => (s.buf, s.busy)) (exec .displayClear { idle with buf := #v[1, 2, 3, 4] }) =
      some (#v[0, 0, 0, 0], true) := by decide +kernel

/-! ## The display commands: 95_test_vectors 2.7, the frames (0x48, 0x31) and (0x48, 0x00) -/

theorem test_displayOn_frame :
    after (fun s => (Receiver.fresh.seeAll s.seqEvents).frames) (exec (.displayOn 3) idle) = some [(0x48, 0x31)] := by
  decide +kernel
theorem test_displayOff_frame :
    after (fun s => (Receiver.fresh.seeAll s.seqEvents).frames) (exec .displayOff idle) = some [(0x48, 0x00)] := by
  decide +kernel

/-! ## The encoder: 95_test_vectors 2.2, at the ends of its ranges -/

theorem test_glyphIndex_ends :
    glyphIndex 0x1D = 29 ∧ glyphIndex 0x1E = 30 ∧ glyphIndex 0x39 = 9 ∧ glyphIndex 0x40 = 30 ∧
    glyphIndex 0x4A = 19 ∧ glyphIndex 0x4B = 30 ∧ glyphIndex 0x52 = 25 ∧ glyphIndex 0x60 = 30 ∧
    glyphIndex 0x72 = 25 ∧ glyphIndex 0x75 = 27 ∧ glyphIndex 0x2A = 29 ∧ glyphIndex 0xE1 = 30 := by decide

/-! ## The engine: 95_test_vectors 2.3, FRAME(0x68, 0x3F) with FULL = 5 and HALF = 2 -/

/-- Indices at both ends of every phase of R118. -/
theorem test_frame_events :
    ([0, 2, 3, 10, 50, 51, 55, 58, 59, 60, 73, 107, 108, 112, 116, 117, 120, 121].map fun j =>
        (frame 5 2 0x68 0x3F)[j]?) =
      [some (.setDio false), some (.setClk false), some (.wait 2), some (.setDio true), some (.setClk false),
       some .dioIn, some (.sample .address), some (.setDio false), some (.wait 2), some (.wait 2),
       some (.setDio true), some (.setClk false), some .dioIn, some (.sample .data), some (.wait 2),
       some (.setClk true), some (.wait 5), none] := by decide +kernel
/-- Sum of waits 183 (95_test_vectors 2.3). -/
theorem test_frame_duration : duration (frame 5 2 0x68 0x3F) = 183 := by decide +kernel
/-- The engine's next event here is SetDio(1) (R110, R121). -/
theorem test_engine_step :
    after (fun s => (s.seqPc, s.pins, s.history)) (step ending) =
      some (3, ⟨true, true, true⟩, [⟨.setDio true, none⟩]) := by decide

/-! ## The host's side: 95_test_vectors 2.8 and P4 -/

theorem test_illegal_word_sets_status :
    after (·.statusWord) (step (idle.withFetchWord 32 0x00000000)) = some 0x06 := by decide
theorem test_overrun :
    after (fun s => (s.faulted, s.buf)) (step (ending.withFetchWord 32 0x02000106)) =
      some (true, #v[0x3F, 0, 0, 0]) := by decide
theorem test_bufWord :
    after (·.reply) (step (withTurn { idle with buf := #v[0x00, 0x06, 0xDB, 0x6D] } (.read 0x10 4))) =
      some (some 0x6DDB0600) := by decide
theorem test_pins_word : after (·.reply) (step (withTurn idle (.read 0x14 4))) = some (some 7) := by decide
theorem test_refused_accesses :
    refusedWith .unmappedOffset (step (withTurn idle (.read 0x18 4))) = true ∧
    refusedWith .readOfCmd (step (withTurn idle (.read 0x00 4))) = true ∧
    refusedWith .notAnAlignedWord (step (withTurn idle (.read 0x04 2))) = true ∧
    refusedWith .notAnAlignedWord (step (withTurn idle (.write 0x01 4 0))) = true := by decide
/-- R230, R231: reset in the middle of a command. -/
theorem test_reset_while_busy :
    after (fun s => (s.busy, s.pins, s.buf, s.full)) (step (withTurn ending .reset)) =
      some (false, ⟨true, true, true⟩, #v[0, 0, 0, 0], 2) := by decide
/-- The defaults meet the constraints (92_eei_decisions, below the table of D12). -/
theorem test_defaults_ok : Config.defaults.ok = true := by decide

/-! ## Witnesses: for every obligation with hypotheses, something that meets them all -/

theorem witness_DecodeOfEncodeIsTheCommand : (Instr.setSpeed 16777215).wellFormed = true := by decide
theorem witness_EncodeOfDecodeIsTheWord : decode 0x0400FFFF = .ok (.writeCharWithPoint 0xFF 0xFF) := by decide
/-- A covered word for each row, and the decoder's reading of it. -/
theorem witness_DecoderAgreesWithTheOpcodeRows :
    decode 0x01FFFFFF = .ok (.setSpeed 16777215) ∧ decode 0x02000000 = .ok (.writeRaw 0 0) ∧
    decode 0x0300FFFF = .ok (.writeChar 0xFF 0xFF) ∧ decode 0x0400FFFF = .ok (.writeCharWithPoint 0xFF 0xFF) ∧
    decode 0x05000007 = .ok (.displayOn 7) ∧ decode 0x06000000 = .ok .displayOff ∧
    decode 0x07000000 = .ok .displayClear ∧
    (opcodeRows.map fun r => r.covers 0x05000007) = [false, false, false, false, true, false, false] := by decide
theorem witness_IllegalEncodingsAreRejected :
    (∃ e, decode 0x05000008 = .error e) ∧ idle.faulted = false ∧ idle.busy = false ∧
    (withTurn idle (.write 0 4 0x05000008)).schedule = .write 0x00 4 0x05000008 :: [] :=
  ⟨⟨.reservedB, by decide⟩, by decide⟩
theorem witness_StepRunsTheSubmittedCommand :
    decode 0x07000000 = .ok .displayClear ∧
    (withTurn idle (.write 0 4 0x07000000)).schedule = .write 0x00 4 0x07000000 :: [] := by decide
/-- Both sides of both clauses: a stopped block, a refused access, and a block that does neither. -/
theorem witness_StepStopsOnlyWhereTheSpecSays :
    ({ idle with faulted := true }.faulted = true ∧ { idle with faulted := true }.schedule = []) ∧
    (withTurn idle (.read 0x00 4)).schedule = .read 0x00 4 :: [] ∧ ¬ (0x00 ∈ [0x04, 0x08, 0x0C, 0x10, 0x14]) ∧
    (withTurn idle (.write 0x18 4 0)).schedule = .write 0x18 4 0 :: [] ∧
    ¬ (0x18 ∈ [0x00, 0x04, 0x08, 0x0C, 0x10, 0x14]) := by decide
/-- Each clause: no turn left, the engine's turn, and a poll. -/
theorem witness_IdleMachineStaysAsItIs :
    idle.faulted = false ∧ idle.busy = false ∧ idle.schedule = [] ∧
    (withTurn idle .engine).schedule = .engine :: [] ∧ (withTurn idle .engine).busy = false ∧
    (withTurn idle .waitIdle).schedule = .waitIdle :: [] := by decide
/-- Each clause: a rate at the end of its 24 bits, a busy block, and an idle one with rates on both sides of the clamp. -/
theorem witness_SetSpeedSetsTheTimingPair :
    16777215 < 2 ^ 24 ∧ ending.faulted = false ∧ ending.busy = true ∧ idle.faulted = false ∧ idle.busy = false ∧
    250000 ≠ 0 ∧ 4 ≤ 1000000 / 250000 ∧ 1000000 / 250001 < 4 := by decide
theorem witness_ZeroRateIsRejected : idle.faulted = false ∧ idle.busy = false := by decide
theorem witness_TimingPairLaws :
    1 ≤ 166667 ∧ idle.faulted = false ∧ idle.busy = false ∧
    (∃ t, exec (.setSpeed 166667) idle = .next t) ∧ ∃ t, exec (.setSpeed 16777215) idle = .next t :=
  ⟨by decide, by decide, by decide, ⟨_, rfl⟩, ⟨_, rfl⟩⟩
theorem witness_ReachableTimingPairsAreThePeriods :
    reachableTiming 500000 250000 = true ∧ reachableTiming 2 1 = true ∧ reachableTiming 1 0 = false ∧
    reachableTiming 500000 249999 = false := by decide
/-- Each clause: an aliased position, a word with the lowest bit of Z set, a busy block and an idle one. -/
theorem witness_WriteRawStoresAndSends :
    (3 : Fin 4).val = (0xFF : Byte).toNat % 4 ∧ (0x02010000 : Word).toNat / 2 ^ 24 = 2 ∧
    (0x02010000 : Word).toNat / 2 ^ 16 % 2 ^ 8 ≠ 0 ∧ ending.faulted = false ∧ ending.busy = true ∧
    idle.faulted = false ∧ idle.busy = false := by decide
theorem witness_WriteCharStoresTheGlyph :
    (0 : Fin 4).val = (4 : Byte).toNat % 4 ∧ (0x72 : Byte) ≠ 0x2E ∧ (25 : Fin 31).val ∈ glyphsByTable 0x72 ∧
    idle.faulted = false ∧ idle.busy = false := by decide
theorem witness_WriteCharPointKeepsTheGlyph :
    (2 : Fin 4).val = (6 : Byte).toNat % 4 ∧ idle.faulted = false ∧ idle.busy = false ∧ idle.cell 2 = 0 ∧
    ({ idle with buf := #v[0, 0, 0x86, 0] }.cell 2).getLsbD 7 = true := by decide
theorem witness_WriteCharWithPointSetsThePoint :
    (1 : Fin 4).val = (5 : Byte).toNat % 4 ∧ (30 : Fin 31).val ∈ glyphsByTable 0x2E ∧
    idle.faulted = false ∧ idle.busy = false := by decide
theorem witness_DisplayOnSendsTheBrightness :
    (7 : Fin 8).val = (7 : BitVec 3).toNat ∧ idle.faulted = false ∧ idle.busy = false := by decide
theorem witness_DisplayOffSendsTheOffByte : idle.faulted = false ∧ idle.busy = false := by decide
theorem witness_DisplayClearBlanksEveryDigit : idle.faulted = false ∧ idle.busy = false := by decide
theorem witness_DisplayClearTwiceIsOnce :
    ∃ t v, exec .displayClear idle = .next t ∧ idle.params = t.params ∧ idle.full = t.full ∧ idle.half = t.half ∧
      exec .displayClear { idle with buf := t.buf } = .next v := ⟨_, _, rfl, rfl, rfl, rfl, rfl⟩
theorem witness_PositionsAreMasked :
    (0 : Fin 4).val ≠ (0xFF : Byte).toNat % 4 ∧ ∃ t, exec (.writeRaw 0xFF 1) idle = .next t :=
  ⟨by decide, _, rfl⟩
theorem witness_BufferWriteLaws :
    (1 : Fin 4).val = (1 : Byte).toNat % 4 ∧ idle.params.ok = true ∧ idle.faulted = false ∧ idle.busy = false ∧
    (0x41 : Byte) ≠ 0x2E ∧ (∃ t, exec (.writeChar 1 0x41) idle = .next t) ∧
    (∃ t, exec (.writeCharWithPoint 1 0x41) idle = .next t) ∧ (∃ t, exec (.writeRaw 1 0x41) idle = .next t) ∧
    (∃ t v, exec (.writeChar 1 0x2E) idle = .next t ∧ exec (.writeChar 1 0x2E) { idle with buf := t.buf } = .next v) ∧
    (∃ t, exec .displayClear idle = .next t) ∧ ∃ t, exec (.displayOn 0) idle = .next t :=
  ⟨by decide, by decide, by decide, by decide, by decide, ⟨_, rfl⟩, ⟨_, rfl⟩, ⟨_, rfl⟩, ⟨_, _, rfl, rfl⟩,
    ⟨_, rfl⟩, ⟨_, rfl⟩⟩
theorem witness_EveryCommandStartsItsFramesAtOnce :
    (∀ rate, Instr.displayClear ≠ .setSpeed rate) ∧ (∀ rate, Instr.writeRaw 3 0xFF ≠ .setSpeed rate) ∧
    idle.faulted = false ∧ idle.busy = false :=
  ⟨nofun, nofun, by decide, by decide⟩
/-- Both sides of the fold, at its bound. -/
theorem witness_EncodeTakesTheFirstMatch :
    (0x40 : Byte).toNat ≤ 0x40 ∧ 0x40 < (0x41 : Byte).toNat ∧ 0x40 < (0x60 : Byte).toNat := by decide
theorem witness_EncodeLaws : 0x80 ≤ (0x80 : Byte).toNat ∧ glyphIndex 0x80 = 30 ∧ glyphIndex 0x7F = 30 := by decide
theorem witness_PointCharacterStoresALitBlank :
    (3 : Fin 4).val = (3 : Byte).toNat % 4 ∧ idle.params.ok = true ∧ idle.faulted = false ∧ idle.busy = false := by
  decide
/-- An accepted word, a rejected one, which changes REJ and CAUSE, and a step that changes an ACK bit. -/
theorem witness_AcceptanceAndRejectionOfStatus :
    idle.faulted = false ∧ idle.busy = false ∧
    (∃ t, step (withTurn idle (.write 0 4 0x07000000)) = .next t) ∧
    (∃ t, step (withTurn idle (.write 0 4 0x01000000)) = .next t ∧ t.status.rej ≠ idle.status.rej) ∧
    ∃ t, step (sampling .data) = .next t ∧ t.status.ackValid ≠ (sampling .data).status.ackValid :=
  ⟨by decide, by decide, ⟨_, rfl⟩, ⟨_, rfl, by decide⟩, _, rfl, by decide⟩
theorem witness_RejectionChangesOnlyRejAndCause :
    idle.faulted = false ∧ idle.busy = false ∧ decode 0x01000000 = .ok (.setSpeed 0) ∧
    decode 0x08000000 = .error .unassignedOp ∧
    (withTurn idle (.write 0 4 0x01000000)).schedule = .write 0x00 4 0x01000000 :: [] := by decide
/-- Each clause in turn: a busy block, an undecodable word, a zero rate, and a command. -/
theorem witness_OutcomesOfACmdWriteInOrder :
    ending.faulted = false ∧ ending.busy = true ∧ idle.faulted = false ∧ idle.busy = false ∧
    decode 0x06000001 = .error .reservedN ∧ decode 0x01000000 = .ok (.setSpeed 0) ∧
    decode 0x01000001 = .ok (.setSpeed 1) ∧ Instr.setSpeed 1 ≠ .setSpeed 0 := by decide
theorem witness_CmdWriteWhileBusyFaultsForGood :
    ending.faulted = false ∧ ending.busy = true ∧
    (withTurn ending (.write 0 4 0x01000000)).schedule = .write 0x00 4 0x01000000 :: [] ∧
    { idle with faulted := true }.faulted = true ∧ { idle with faulted := true }.schedule = [] := by decide
theorem witness_CommandWhileBusyIsAnOverrun : ending.faulted = false ∧ ending.busy = true := by decide
/-- A reset is the one step of a faulted block (R31). -/
theorem witness_FaultedIsNeverCleared :
    ∃ t, step (withTurn { idle with faulted := true } .reset) = .next t := ⟨_, rfl⟩
/-- Each event, and each of the three ways the engine comes to move. -/
theorem witness_EngineStepPerformsTheNextEvent :
    ending.faulted = false ∧ ending.seqEvents[ending.seqPc]? = some (.setDio true) ∧ ending.schedule = [] ∧
    (withTurn ending .engine).schedule = .engine :: [] ∧ (withTurn ending .waitIdle).schedule = .waitIdle :: [] ∧
    ([51, 52, 53, 55, 57, 58, 112].map fun j => (frame 5 2 0x68 0x3F)[j]?) =
      [some .dioIn, some (.wait 5), some (.setClk true), some (.sample .address), some .dioOut,
       some (.setDio false), some (.sample .data)] := by decide +kernel
/-- A bit that is sent with the clock low, its one SetDio, and a data line that has the bit's level already. -/
theorem witness_SequenceLengthsAndDurations :
    (⟨false, true, true⟩ : Pins).clkOut = false ∧ (bitEvents 5 2 true)[1]? = some (.setDio true) ∧
    (⟨false, true, true⟩ : Pins).dioOut = true := by decide
theorem witness_WaveformCarriesTheFrame :
    Receiver.fresh.clk = true ∧ Receiver.fresh.dio = true ∧ Receiver.fresh.oe = true ∧
    Receiver.fresh.receiving = false := by decide
/-- Once the engine moves, once with a Sample, and once the host only passes a turn. -/
theorem witness_CommandInProgressIsNeverSplit :
    ending.busy = true ∧ ending.schedule = [] ∧ (∃ t, step ending = .next t) ∧
    (sampling .address).busy = true ∧ (∃ t, step (sampling .address) = .next t) ∧
    ∃ t, step (withTurn ending (.read 0x04 4)) = .next t :=
  ⟨by decide, rfl, ⟨_, rfl⟩, by decide, ⟨_, rfl⟩, ⟨_, rfl⟩⟩
theorem witness_CommandRunsToItsEnd :
    ending.faulted = false ∧ ending.schedule = [] ∧ ending.remaining.length = 2 := by decide
theorem witness_PollingHostGoesOnWhenIdle :
    (withTurn ending .waitIdle).faulted = false ∧ (withTurn ending .waitIdle).schedule = .waitIdle :: [] := by
  decide
/-- Each of the five offsets, read and written. -/
theorem witness_HostReadsAndReadOnlyWrites :
    idle.faulted = false ∧
    (∀ o ∈ [0x04, 0x08, 0x0C, 0x10, 0x14],
      (withTurn idle (.read o 4)).schedule = .read o 4 :: [] ∧
      (withTurn idle (.write o 4 1)).schedule = .write o 4 1 :: []) ∧
    (0x14, idle.pinsWord) ∈ [(0x04, idle.statusWord), (0x08, idle.full), (0x0C, idle.half), (0x10, idle.bufWord),
      (0x14, idle.pinsWord)] := by decide
theorem witness_ResetRestoresTheBlock : (withTurn ending .reset).schedule = .reset :: [] := rfl
theorem witness_ParametersStayAndHistoryGrows : ∃ t, step ending = .next t := ⟨_, rfl⟩
theorem witness_OnlySetSpeedAndResetWriteTiming :
    ∃ t, step (withTurn idle (.write 0 4 0x01000001)) = .next t ∧ t.full ≠ idle.full :=
  ⟨_, rfl, by decide⟩
theorem witness_OnlyBufferCommandsAndResetWriteBuf :
    (∃ t, step (withTurn ending .reset) = .next t) ∧
    ∃ t, step (withTurn idle (.write 0 4 0x020003FF)) = .next t ∧ t.cell 3 ≠ idle.cell 3 :=
  ⟨⟨_, rfl⟩, _, rfl, by decide⟩
theorem witness_OnlyEventsAndResetWriteThePins :
    ∃ t, step ending = .next t ∧ t.pins ≠ ending.pins := ⟨_, rfl, by decide⟩
theorem witness_StepKeepsTheRegisterInvariant : idle.RegisterInv ∧ ∃ t, step idle = .next t :=
  ⟨⟨by decide, by unfold State.TimingInv; decide, by unfold State.StatusInv; decide,
    by unfold State.SequencerInv; decide⟩, _, rfl⟩
theorem witness_StepKeepsTheLineInvariant : ending.LineInv ∧ ∃ t, step ending = .next t :=
  ⟨by unfold State.LineInv; decide, _, rfl⟩
theorem witness_IdleLinesWheneverNotBusy :
    ending.LineInv ∧ (∃ t : State, Host.Core.run Sys2Proof.core 2 ending = .next t ∧ t.busy = false) ∧
    ∃ t : State, step (withTurn ending .reset) = .next t :=
  ⟨by unfold State.LineInv; decide, ⟨_, rfl, by decide⟩, _, rfl⟩
/-- An event of each kind the first clause speaks of, and a release in a frame. -/
theorem witness_DataLineIsDrivenInTurn :
    ending.LineInv ∧ ending.seqEvents[ending.seqPc]? = some (.setDio true) ∧
    (sampling .data).LineInv ∧ (sampling .data).seqEvents[(sampling .data).seqPc]? = some (.sample .data) ∧
    (frame 5 2 0x68 0x3F)[108]? = some .dioIn := by unfold State.LineInv; decide +kernel
/-- A receiver in the middle of the idle condition that ends a frame to digit 0. -/
theorem witness_StepKeepsTheBufferInvariant :
    ending.params.ok = true ∧ BufferMatchesWire ⟨true, false, true, false, [], [(0x68, 0x3F)]⟩ ending ∧
    ∃ t, step ending = .next t := by
  refine ⟨by decide, ⟨by decide, by decide, by decide, by decide, ?_⟩, _, rfl⟩
  intro p v h
  have hp : ∀ p : Fin 4, Receiver.lastTo (Receiver.seeAll ⟨true, false, true, false, [], [(0x68, 0x3F)]⟩
      ending.remaining) (ending.digitAddr p) = none ∨ Receiver.lastTo
      (Receiver.seeAll ⟨true, false, true, false, [], [(0x68, 0x3F)]⟩ ending.remaining) (ending.digitAddr p) =
        some (ending.cell p) := by decide
  rcases hp p with hn | hs
  · rw [hn] at h; cases h
  · rw [hs] at h; exact Option.some.inj h
theorem witness_BufferHoldsTheLastByteSent :
    idle.params.ok = true ∧ idle.busy = false ∧
    (watchedRun 122 Receiver.fresh (withTurn idle (.write 0 4 0x0200003F))).map
        (fun r => (r.2.busy, r.1.lastTo 0x68, r.2.cell 0)) = some (false, some 0x3F, 0x3F) := by decide +kernel
theorem witness_DrawsNeverSteerTheBlock :
    idle.withoutDraws = { idle with status := { idle.status with ackA := true }, drawCount := 9 }.withoutDraws :=
  rfl
/-- A host that writes a command, polls, and writes the next. -/
theorem witness_SerialisedHostNeverStops :
    (idle.setSchedule [.write 0 4 0x07000000, .read 4 4, .waitIdle, .write 0 4 0x06000000]).Safe := by
  unfold State.Safe; decide

end Sys2Proof.Tests
end

section
/-! The sequences of the protocol engine (41_protocol_engine R111 to R117): which events write STATUS, how long a
sequence lasts, and the line levels inside it. -/

namespace Sys2Proof.Machine

@[simp] theorem duration_nil : duration [] = 0 := rfl

@[simp] theorem duration_cons (e : Event) (l : List Event) : duration (e :: l) = e.units + duration l := by
  simp [duration]

/-- Only a Sample writes STATUS (R110): a list of events without one leaves it alone. -/
theorem State.performAll_status_of_no_sample (l : List Event) (s : State) (h : ∀ k, .sample k ∉ l) :
    (s.performAll l).status = s.status := by
  induction l generalizing s with
  | nil => rfl
  | cons e l ih =>
    have head : (s.performNext e).status = s.status := by
      rw [State.performNext_status, State.perform_status]
      cases e with
      | sample k => exact absurd List.mem_cons_self (h k)
      | setClk v | setDio v | dioIn | dioOut | wait n => rfl
    have tail : ∀ k, .sample k ∉ l := fun k hk => h k (List.mem_cons_of_mem e hk)
    exact (ih (s.performNext e) tail).trans head

/-! ### IDLE, START and BIT -/

theorem duration_idleEvents (full : Word) : duration (idleEvents full) = 2 * full.toNat := by
  simp only [idleEvents, duration_cons, duration_nil, Event.units]
  omega

theorem performAll_idleEvents_status (full : Word) (s : State) :
    (s.performAll (idleEvents full)).status = s.status :=
  s.performAll_status_of_no_sample _ (by simp [idleEvents])

/-- IDLE leaves both lines high, wherever they start (R111). -/
theorem afterAll_idleEvents (p : Pins) (full : Word) :
    p.afterAll (idleEvents full) = { p with clkOut := true, dioOut := true } := rfl

theorem duration_startEvents (full : Word) : duration (startEvents full) = full.toNat := by
  simp [startEvents, Event.units]

theorem performAll_startEvents_status (full : Word) (s : State) :
    (s.performAll (startEvents full)).status = s.status :=
  s.performAll_status_of_no_sample _ (by simp [startEvents])

/-- START leaves CLK to the state before it: it never drives it high (R112). -/
theorem setClk_true_notMem_startEvents (full : Word) : .setClk true ∉ startEvents full := by
  simp [startEvents]

/-- START leaves both lines low, wherever they start (R112). -/
theorem afterAll_startEvents (p : Pins) (full : Word) :
    p.afterAll (startEvents full) = { p with clkOut := false, dioOut := false } := rfl

theorem duration_bitEvents (full half : Word) (v : Bool) :
    duration (bitEvents full half v) = 2 * half.toNat + full.toNat := by
  simp only [bitEvents, duration_cons, duration_nil, Event.units]
  omega

theorem performAll_bitEvents_status (full half : Word) (v : Bool) (s : State) :
    (s.performAll (bitEvents full half v)).status = s.status :=
  s.performAll_status_of_no_sample _ (by simp [bitEvents])

/-- BIT drives the data line once, in its second event (R113). -/
theorem eq_one_of_setDio_in_bitEvents {full half : Word} {v u : Bool} {j : Nat}
    (h : (bitEvents full half v)[j]? = some (.setDio u)) : j = 1 := by
  match j with
  | 1 => rfl
  | 0 | 2 | 3 | 4 | 5 | _ + 6 => simp [bitEvents] at h

/-- The data line changes only while CLK is low, when CLK is low at the start of BIT (R113). -/
theorem clk_low_at_setDio_of_bitEvents {full half : Word} {v u : Bool} {j : Nat} {p : Pins} (hp : p.clkOut = false)
    (h : (bitEvents full half v)[j]? = some (.setDio u)) :
    (p.afterAll ((bitEvents full half v).take j)).clkOut = false := by
  obtain rfl := eq_one_of_setDio_in_bitEvents h
  exact hp

/-- BIT leaves CLK low and the data line at the bit's level, wherever they start (R113). -/
theorem afterAll_bitEvents (p : Pins) (full half : Word) (v : Bool) :
    p.afterAll (bitEvents full half v) = { p with clkOut := false, dioOut := v } := rfl

/-! ### ACK, BYTE and FRAME -/

theorem duration_ackEvents (full half : Word) (k : AckSlot) :
    duration (ackEvents full half k) = 2 * full.toNat + half.toNat := by
  simp only [ackEvents, duration_cons, duration_nil, Event.units]
  omega

theorem duration_flatMap_bitEvents (full half : Word) (vs : List Bool) :
    duration (vs.flatMap (bitEvents full half)) = vs.length * (2 * half.toNat + full.toNat) := by
  induction vs with
  | nil => simp
  | cons v vs ih =>
    rw [List.flatMap_cons, duration_append, duration_bitEvents, ih, List.length_cons]
    ring

theorem length_byteEvents (full half : Word) (x : Byte) (k : AckSlot) :
    (byteEvents full half x k).length = 57 := rfl

/-- A byte lasts eight bits and an acknowledgment slot (R115). -/
theorem duration_byteEvents (full half : Word) (x : Byte) (k : AckSlot) :
    duration (byteEvents full half x k) = 10 * full.toNat + 17 * half.toNat := by
  have eight : (bitsMsbFirst x).length = 8 := rfl
  rw [byteEvents, duration_append, duration_flatMap_bitEvents, duration_ackEvents, eight]
  omega

/-- A frame lasts a start condition, two bytes and an idle condition (R117). -/
theorem duration_frame (full half : Word) (a x : Byte) :
    duration (frame full half a x) = 23 * full.toNat + 34 * half.toNat := by
  simp only [frame, duration_append, duration_startEvents, duration_byteEvents, duration_idleEvents]
  omega

/-- Settles O37, sequence by sequence. The listed events, their numbers and the levels after the first two events of
IDLE and START hold by definition; every other part is a lemma above. -/
theorem sequenceLengthsAndDurations : Obligations.SequenceLengthsAndDurations := by
  intro full half v k a x
  refine ⟨⟨rfl, rfl, duration_idleEvents full, performAll_idleEvents_status full, fun p => ?idleLevels⟩,
    ⟨rfl, rfl, duration_startEvents full, performAll_startEvents_status full, setClk_true_notMem_startEvents full,
      fun p => ?startLevels⟩,
    ⟨rfl, rfl, duration_bitEvents full half v, performAll_bitEvents_status full half v, fun p hclk => ?bitLevels⟩,
    ⟨rfl, duration_ackEvents full half k⟩,
    ⟨length_byteEvents full half x k, duration_byteEvents full half x k⟩,
    ⟨frame_length full half a x, duration_frame full half a x⟩⟩
  case idleLevels => exact ⟨rfl, by rw [afterAll_idleEvents], by rw [afterAll_idleEvents]⟩
  case startLevels => exact ⟨rfl, rfl, by rw [afterAll_startEvents]⟩
  case bitLevels =>
    rw [afterAll_bitEvents]
    exact ⟨fun _ _ hset => clk_low_at_setDio_of_bitEvents hclk hset, fun hdio => hdio.symm, rfl⟩

end Sys2Proof.Machine
end

section
/-! The glyph encoder (42_glyph_encoder R131): the number of a folded code, and the value of ENCODE check by check. -/

namespace Sys2Proof.Machine

/-- Clearing the bits of a mask subtracts those of them that are set: the kept and the cleared bits are disjoint. -/
theorem toNat_and_not {w : Nat} (x m : BitVec w) : (x &&& ~~~m).toNat = x.toNat - (x &&& m).toNat := by
  have disjoint : (x &&& ~~~m) &&& (x &&& m) = 0#w := by
    ext i hi
    cases bit : m[i] <;> simp [bit]
  have whole : (x &&& ~~~m) + (x &&& m) = x := by
    rw [BitVec.add_eq_or_of_and_eq_zero _ _ disjoint, BitVec.or_comm, ← BitVec.and_or_distrib_left, BitVec.or_not_self,
      BitVec.and_allOnes]
  have sum := BitVec.toNat_add_of_and_eq_zero disjoint
  rw [whole] at sum
  omega

/-- Clearing bit 5 of a code takes 0x20 off it when the bit is set, whatever the code stands for (R131). -/
theorem toNat_clear_bit5 (code : Byte) :
    (code &&& ~~~(0x20 : Byte)).toNat = code.toNat - if code.getLsbD 5 then 0x20 else 0 := by
  have mask : (0x20 : Byte) = BitVec.twoPow 8 5 := rfl
  rw [toNat_and_not, mask, BitVec.and_twoPow]
  cases code.getLsbD 5 <;> rfl

theorem foldCase_toNat (code : Byte) :
    (foldCase code).toNat = if 0x40 < code.toNat then (code &&& ~~~(0x20 : Byte)).toNat else code.toNat :=
  apply_ite BitVec.toNat _ _ _

/-- The fold changes no code up to '@' (R131). -/
theorem foldCase_toNat_of_le {code : Byte} (h : code.toNat ≤ 0x40) : (foldCase code).toNat = code.toNat := by
  rw [foldCase_toNat, if_neg (Nat.not_lt.mpr h)]

/-- The fold clears bit 5 of every code above '@' (R131). -/
theorem foldCase_toNat_of_gt {code : Byte} (h : 0x40 < code.toNat) :
    (foldCase code).toNat = code.toNat - if code.getLsbD 5 then 0x20 else 0 := by
  rw [foldCase_toNat, if_pos h, toNat_clear_bit5]

/-- The index of a folded code, by the first match of rules 4 to 6 (R131). -/
theorem encodeFolded_val (c : Nat) :
    (encodeFolded c).val =
      if 0x41 ≤ c ∧ c ≤ 0x4A then c - 0x41 + 10
      else if c = 0x4C then 20
      else if 0x4E ≤ c ∧ c ≤ 0x52 then 21 + (c - 0x4E)
      else if c = 0x54 then 26
      else if c = 0x55 then 27
      else if c = 0x2D then 28
      else if c = 0x2A then 29
      else 30 := by
  simp only [encodeFolded, apply_dite Fin.val, apply_ite Fin.val, dite_eq_ite]
  rfl

/-- Rules 1 and 2 look at the code itself, every later one at the folded code (R131). -/
theorem glyphIndex_val (code : Byte) :
    (glyphIndex code).val =
      if code.toNat < 30 then code.toNat
      else if 0x30 ≤ code.toNat ∧ code.toNat ≤ 0x39 then code.toNat - 0x30
      else (encodeFolded (foldCase code).toNat).val := by
  simp only [glyphIndex, apply_dite Fin.val, dite_eq_ite]

/-- Settles O24: the checks are those of `glyphIndex_val` and `encodeFolded_val`, and the two fold clauses are the fold's
two cases. -/
theorem encodeTakesTheFirstMatch : Obligations.EncodeTakesTheFirstMatch := by
  refine ⟨fun code => ?_, by decide⟩
  simp only [← foldCase_toNat]
  exact ⟨by rw [glyphIndex_val, encodeFolded_val], foldCase_toNat_of_le, foldCase_toNat_of_gt⟩

end Sys2Proof.Machine
end

section
/-! Encoding (30_encoding R70 to R74): a word is its OP above its 24 operand bits, a command's word has the fields of
its format, and the decoder reads exactly the words of well-formed commands. -/

namespace Sys2Proof

/-- A word is its OP above its low 24 bits (R70). -/
theorem toNat_eq_opField_rateField (w : Word) :
    w.toNat = (opField w).toNat * 2 ^ 24 + (rateField w).toNat := by
  rw [opField_toNat, rateField_toNat]; omega

/-- The low 24 bits of a command's word are its operand bits (R70). -/
theorem rateField_encode (i : Instr) : rateField (encode i) = operandBits i := by
  apply BitVec.eq_of_toNat_eq
  have := (operandBits i).isLt
  rw [rateField_toNat, encode_toNat]; omega

/-- A word is a command's word exactly when it has the command's OP and operand bits (R70, R72). -/
theorem encode_eq_iff {i : Instr} {w : Word} : encode i = w ↔ opOf i = opField w ∧ operandBits i = rateField w := by
  constructor
  · rintro rfl
    exact ⟨(opField_encode i).symm, (rateField_encode i).symm⟩
  · rintro ⟨hop, hbits⟩
    apply BitVec.eq_of_toNat_eq
    rw [encode_toNat, toNat_eq_opField_rateField w, hop, hbits]

/-- The fields of a format P word (R70). -/
theorem formatP_eq_iff {w : Word} {pos low : Byte} :
    0#8 ++ pos ++ low = rateField w ↔ zField w = 0 ∧ posField w = pos ∧ lowField w = low := by
  have hp := pos.isLt
  have hl := low.isLt
  simp only [← BitVec.toNat_inj, formatP_toNat, rateField_toNat, zField_toNat, posField_toNat, lowField_toNat,
    BitVec.reduceToNat]
  omega

/-- The fields of a format B word (R70). -/
theorem formatB_eq_iff {w : Word} {bright : BitVec 3} :
    0#21 ++ bright = rateField w ↔ brightZeroField w = 0 ∧ brightField w = bright := by
  have hb := bright.isLt
  simp only [← BitVec.toNat_inj, formatB_toNat, rateField_toNat, brightZeroField_toNat, brightField_toNat,
    BitVec.reduceToNat]
  omega

/-- A format P word decodes to what is built of its two fields (R70, R71). -/
theorem decodeP_of_bits {build : Byte → Byte → Instr} {w : Word} {pos low : Byte}
    (h : 0#8 ++ pos ++ low = rateField w) : decodeP build w = .ok (build pos low) := by
  obtain ⟨hz, hp, hl⟩ := formatP_eq_iff.mp h
  rw [decodeP, if_pos hz, hp, hl]

/-- A format B word decodes to DISPLAY_ON of its brightness (R70, R71). -/
theorem decodeB_of_bits {w : Word} {bright : BitVec 3} (h : 0#21 ++ bright = rateField w) :
    decodeB w = .ok (.displayOn bright) := by
  obtain ⟨hz, hb⟩ := formatB_eq_iff.mp h
  rw [decodeB, if_pos hz, hb]

/-- A format N word decodes to its command (R70). -/
theorem decodeN_of_bits {i : Instr} {w : Word} (h : 0 = rateField w) : decodeN i w = .ok i := if_pos h.symm

/-- Settles O1: OP selects the command's format, and the format's fields are the operands. -/
theorem decodeOfEncodeIsTheCommand : Obligations.DecodeOfEncodeIsTheCommand := by
  intro i hwf
  have hop := opField_encode i
  have hbits := (rateField_encode i).symm
  unfold decode
  rw [hop]
  cases i with
  | setSpeed rate =>
    have hlt : rate < 2 ^ 24 := of_decide_eq_true hwf
    have hrate : (rateField (encode (.setSpeed rate))).toNat = rate := by
      rw [← hbits]; exact Nat.mod_eq_of_lt hlt
    exact congrArg (fun n => Except.ok (Instr.setSpeed n)) hrate
  | writeRaw pos pattern => exact decodeP_of_bits hbits
  | writeChar pos code => exact decodeP_of_bits hbits
  | writeCharWithPoint pos code => exact decodeP_of_bits hbits
  | displayOn bright => exact decodeB_of_bits hbits
  | displayOff => exact decodeN_of_bits hbits
  | displayClear => exact decodeN_of_bits hbits

/-- Settles O2, by the seven readings of the decoder. -/
theorem encodeOfDecodeIsTheWord : Obligations.EncodeOfDecodeIsTheWord := by
  intro w i h
  rw [encode_eq_iff]
  obtain ⟨hop, rfl⟩ | ⟨hop, hz, rfl⟩ | ⟨hop, hz, rfl⟩ | ⟨hop, hz, rfl⟩ | ⟨hop, hz, rfl⟩ | ⟨hop, hz, rfl⟩ |
    ⟨hop, hz, rfl⟩ := decode_eq_ok h
  · refine ⟨decide_eq_true (rateField w).isLt, hop.symm, ?_⟩
    exact BitVec.ofNat_toNat 24 _
  · exact ⟨rfl, hop.symm, formatP_eq_iff.mpr ⟨hz, rfl, rfl⟩⟩
  · exact ⟨rfl, hop.symm, formatP_eq_iff.mpr ⟨hz, rfl, rfl⟩⟩
  · exact ⟨rfl, hop.symm, formatP_eq_iff.mpr ⟨hz, rfl, rfl⟩⟩
  · exact ⟨rfl, hop.symm, formatB_eq_iff.mpr ⟨hz, rfl⟩⟩
  · exact ⟨rfl, hop.symm, hz.symm⟩
  · exact ⟨rfl, hop.symm, hz.symm⟩

/-- Everything the decoder can answer when it rejects a word: one of the four lines of R73. -/
theorem decode_eq_error {w : Word} {e : IllegalEncoding} (h : decode w = .error e) :
    (opField w ∉ [0x01, 0x02, 0x03, 0x04, 0x05, 0x06, 0x07] ∧ e = .unassignedOp) ∨
    (opField w ∈ [0x02, 0x03, 0x04] ∧ zField w ≠ 0 ∧ e = .reservedP) ∨
    (opField w = 0x05 ∧ brightZeroField w ≠ 0 ∧ e = .reservedB) ∨
    (opField w ∈ [0x06, 0x07] ∧ rateField w ≠ 0 ∧ e = .reservedN) := by
  unfold decode decodeP decodeB decodeN at h
  repeat' split at h
  all_goals try cases h
  all_goals simp_all

/-- The four lines of R73 on the word's number. -/
theorem decode_error_iff (w : Word) :
    (∃ e, decode w = .error e) ↔
      (w.toNat / 2 ^ 24 = 0x00 ∨ 0x08 ≤ w.toNat / 2 ^ 24 ∨
       (0x02 ≤ w.toNat / 2 ^ 24 ∧ w.toNat / 2 ^ 24 ≤ 0x04 ∧ w.toNat / 2 ^ 16 % 2 ^ 8 ≠ 0) ∨
       (w.toNat / 2 ^ 24 = 0x05 ∧ w.toNat / 2 ^ 3 % 2 ^ 21 ≠ 0) ∨
       (0x06 ≤ w.toNat / 2 ^ 24 ∧ w.toNat / 2 ^ 24 ≤ 0x07 ∧ w.toNat % 2 ^ 24 ≠ 0)) := by
  simp only [← opField_toNat, ← zField_toNat, ← brightZeroField_toNat, ← rateField_toNat]
  constructor
  · rintro ⟨e, h⟩
    have kinds := decode_eq_error h
    simp only [List.mem_cons, List.not_mem_nil, or_false, ne_eq, ← BitVec.toNat_inj, BitVec.reduceToNat] at kinds
    omega
  · intro h
    cases hd : decode w with
    | error e => exact ⟨e, rfl⟩
    | ok i =>
      exfalso
      have rows := decode_eq_ok hd
      simp only [← BitVec.toNat_inj, BitVec.reduceToNat] at rows
      omega

end Sys2Proof
end

section
/-! The opcode table and the illegal words (30_encoding R72, R73; 60_exceptions R201). -/

namespace Sys2Proof

/-- The command's word is covered by the row with its mnemonic (R72). -/
theorem tableRow (i : Instr) : Laws.TableRow.Statement i := by
  cases i with
  | setSpeed rate => exact Laws.TableRow.setSpeed rate
  | writeRaw pos pattern => exact Laws.TableRow.writeRaw pos pattern
  | writeChar pos code => exact Laws.TableRow.writeChar pos code
  | writeCharWithPoint pos code => exact Laws.TableRow.writeCharWithPoint pos code
  | displayOn bright => exact Laws.TableRow.displayOn bright
  | displayOff => exact Laws.TableRow.displayOff
  | displayClear => exact Laws.TableRow.displayClear

/-- Every row's mask keeps the whole of OP (R72). -/
theorem opField_mask : ∀ r ∈ opcodeRows, opField r.mask = BitVec.allOnes 8 := by decide

/-- A word that a row covers has the row's OP (R72). -/
theorem opField_of_covers {r : OpcodeRow} (hr : r ∈ opcodeRows) {w : Word} (h : r.covers w = true) :
    opField w = opField r.value := by
  have hand : opField (w &&& r.mask) = opField w &&& opField r.mask := BitVec.extractLsb'_and
  rw [← beq_iff_eq.mp h, hand, opField_mask r hr, BitVec.and_allOnes]

theorem opcodeRows_eq_of_op : ∀ r ∈ opcodeRows, ∀ q ∈ opcodeRows, opField r.value = opField q.value → r = q := by
  decide

theorem opcodeRows_eq_of_mnemonic : ∀ r ∈ opcodeRows, ∀ q ∈ opcodeRows, r.mnemonic = q.mnemonic → r = q := by
  decide

/-- No two rows cover one word (R72). -/
theorem opcodeRows_disjoint {r q : OpcodeRow} (hr : r ∈ opcodeRows) (hq : q ∈ opcodeRows) {w : Word}
    (h : r.covers w = true) (h' : q.covers w = true) : r = q :=
  opcodeRows_eq_of_op r hr q hq ((opField_of_covers hr h).symm.trans (opField_of_covers hq h'))

/-- A row that covers a word leaves no line of R73 for it. -/
theorem decode_ne_error_of_covers {r : OpcodeRow} (hr : r ∈ opcodeRows) {w : Word} (h : r.covers w = true)
    (e : IllegalEncoding) : decode w ≠ .error e := by
  intro he
  have kinds := (decode_error_iff w).mp ⟨e, he⟩
  simp only [opcodeRows, List.mem_cons, List.not_mem_nil, or_false] at hr
  obtain rfl | rfl | rfl | rfl | rfl | rfl | rfl := hr
  · have hw : w.toNat / 2 ^ 24 * 2 ^ 24 = 0x01000000 := (OpcodeRow.covers_iff _ w 24 (by decide)).mp h
    omega
  · have hw : w.toNat / 2 ^ 16 * 2 ^ 16 = 0x02000000 := (OpcodeRow.covers_iff _ w 16 (by decide)).mp h
    omega
  · have hw : w.toNat / 2 ^ 16 * 2 ^ 16 = 0x03000000 := (OpcodeRow.covers_iff _ w 16 (by decide)).mp h
    omega
  · have hw : w.toNat / 2 ^ 16 * 2 ^ 16 = 0x04000000 := (OpcodeRow.covers_iff _ w 16 (by decide)).mp h
    omega
  · have hw : w.toNat / 2 ^ 3 * 2 ^ 3 = 0x05000000 := (OpcodeRow.covers_iff _ w 3 (by decide)).mp h
    omega
  · have hw : w.toNat / 2 ^ 0 * 2 ^ 0 = 0x06000000 := (OpcodeRow.covers_iff _ w 0 (by decide)).mp h
    omega
  · have hw : w.toNat / 2 ^ 0 * 2 ^ 0 = 0x07000000 := (OpcodeRow.covers_iff _ w 0 (by decide)).mp h
    omega

/-- Settles O3: a decoded word is its command's encoding (O2), which the row of its mnemonic covers; and the rows are
told apart by their OP and by their mnemonic. -/
theorem decoderAgreesWithTheOpcodeRows : Obligations.DecoderAgreesWithTheOpcodeRows := by
  have covered : ∀ {w i}, decode w = .ok i → ∃ r ∈ opcodeRows, r.mnemonic = mnemonicOf i ∧ r.covers w = true := by
    intro w i h
    obtain ⟨-, rfl⟩ := encodeOfDecodeIsTheWord w i h
    exact tableRow i
  refine ⟨fun w i h r hr => ?_, fun w => ⟨fun ⟨e, he⟩ r hr => ?_, fun hnone => ?_⟩,
    fun w r hr q hq h h' => opcodeRows_disjoint hr hq h h'⟩
  · obtain ⟨q, hq, hname, hcov⟩ := covered h
    constructor
    · intro hr'
      rw [opcodeRows_disjoint hr hq hr' hcov, hname]
    · intro hr'
      rw [opcodeRows_eq_of_mnemonic r hr q hq (hr'.trans hname.symm)]
      exact hcov
  · exact Bool.eq_false_iff.mpr fun hcov => decode_ne_error_of_covers hr hcov e he
  · cases hd : decode w with
    | error e => exact ⟨e, rfl⟩
    | ok i =>
      obtain ⟨q, hq, -, hcov⟩ := covered hd
      simp [hnone q hq] at hcov

/-- Settles O4: the four lines of R73 are `decode_error_iff`, and the host's write of such a word is rejected. -/
theorem illegalEncodingsAreRejected : Obligations.IllegalEncodingsAreRejected := by
  intro w
  refine ⟨decode_error_iff w, fun s rest ⟨e, he⟩ hf hb hs => ?_⟩
  rw [Machine.step_of_cmdWrite hs]
  exact Machine.submit_of_error he hf hb

/-- Settles O5: thirteen closed words, evaluated. -/
theorem commandWordsOfTheSpecDecode : Obligations.CommandWordsOfTheSpecDecode := by
  unfold Obligations.CommandWordsOfTheSpecDecode
  decide

end Sys2Proof
end

section
/-! Timing (40_timing R100 to R104): the periods of the rates, the pair a period gives, the model's test of a pair, and
SET_SPEED. -/

namespace Sys2Proof.Machine

/-- A period is a fixed point of dividing twice: 1000000 / p is the largest rate whose period reaches p (R104). -/
theorem div_div_of_period {n r : Nat} (hp : 1 ≤ n / r) : n / (n / (n / r)) = n / r := by
  have hr : 0 < r := Nat.pos_of_ne_zero fun h => by simp [h] at hp
  have hle : r ≤ n / (n / r) := (Nat.le_div_iff_mul_le hp).mpr (Nat.mul_div_le n r)
  apply Nat.le_antisymm (Nat.div_le_div_left hle hr)
  exact (Nat.le_div_iff_mul_le (hr.trans_le hle)).mpr (Nat.mul_div_le n (n / r))

/-- The model's test of a period says that some rate has it (R104). -/
theorem reachablePeriod_iff (p : Nat) :
    reachablePeriod p = true ↔ 1 ≤ p ∧ p ≤ 1000000 ∧ ∃ r, 1 ≤ r ∧ p = 1000000 / r := by
  simp only [reachablePeriod, Bool.and_eq_true, decide_eq_true_eq, and_assoc]
  refine and_congr_right fun hp => and_congr_right fun hle => ⟨fun h => ?_, fun ⟨r, _, h⟩ => ?_⟩
  · exact ⟨1000000 / p, Nat.div_pos hle hp, h.symm⟩
  · subst h
    exact div_div_of_period hp

/-- The model's test of a timing pair says that it is (p/2, p/4) for a period of at least 4 (R104). -/
theorem reachableTiming_iff (full half : Word) :
    reachableTiming full half = true ↔
      ∃ p r, 4 ≤ p ∧ p ≤ 1000000 ∧ 1 ≤ r ∧ p = 1000000 / r ∧ full.toNat = p / 2 ∧ half.toNat = p / 4 := by
  simp only [reachableTiming, List.any_eq_true, Bool.and_eq_true, decide_eq_true_eq, reachablePeriod_iff]
  constructor
  · rintro ⟨p, -, ⟨⟨hp, -, hle, r, hr, hpr⟩, hfull⟩, hhalf⟩
    exact ⟨p, r, hp, hle, hr, hpr, hfull, hhalf⟩
  · rintro ⟨p, r, hp, hle, hr, hpr, hfull, hhalf⟩
    refine ⟨p, ?_, ⟨⟨hp, by omega, hle, r, hr, hpr⟩, hfull⟩, hhalf⟩
    simp only [List.mem_cons, List.not_mem_nil, or_false]
    omega

theorem periodOf_le (rate : Nat) : periodOf rate ≤ 1000000 := Nat.div_le_self _ _

/-- FULL of a period, as a number: it fits its 32 bits (R101). -/
theorem fullOf_toNat {p : Nat} (h : p ≤ 1000000) : (fullOf p).toNat = if 4 ≤ p then p / 2 else 2 := by
  unfold fullOf
  split
  · rw [BitVec.toNat_ofNat]; omega
  · rfl

/-- HALF of a period, as a number (R101). -/
theorem halfOf_toNat {p : Nat} (h : p ≤ 1000000) : (halfOf p).toNat = if 4 ≤ p then p / 4 else 1 := by
  unfold halfOf
  split
  · rw [BitVec.toNat_ofNat]; omega
  · rfl

/-- The clamp of R101 is itself the pair of a rate, 250000, so every rate gives a reachable pair (R104). -/
theorem reachableTiming_of_rate {rate : Nat} (h : rate ≠ 0) :
    reachableTiming (fullOf (periodOf rate)) (halfOf (periodOf rate)) = true := by
  have hle := periodOf_le rate
  rw [reachableTiming_iff, fullOf_toNat hle, halfOf_toNat hle]
  by_cases hp : 4 ≤ periodOf rate
  · exact ⟨periodOf rate, rate, hp, hle, Nat.pos_of_ne_zero h, rfl, if_pos hp, if_pos hp⟩
  · exact ⟨4, 250000, by decide, by decide, by decide, by decide, if_neg hp, if_neg hp⟩

/-- A reachable pair is what some rate gives (R104). -/
theorem rate_of_reachableTiming {full half : Word} (h : reachableTiming full half = true) :
    ∃ r, 1 ≤ r ∧ r < 2 ^ 24 ∧ full = fullOf (periodOf r) ∧ half = halfOf (periodOf r) := by
  obtain ⟨p, r, hp, hle, hr, rfl, hfull, hhalf⟩ := (reachableTiming_iff full half).mp h
  refine ⟨r, hr, ?_, BitVec.eq_of_toNat_eq ?_, BitVec.eq_of_toNat_eq ?_⟩
  · have := (Nat.le_div_iff_mul_le hr).mp hp
    omega
  · rw [periodOf, fullOf_toNat hle, if_pos hp, hfull]
  · rw [periodOf, halfOf_toNat hle, if_pos hp, hhalf]

/-! ### SET_SPEED -/

/-- An accepted SET_SPEED (R101). -/
theorem exec_setSpeed_of_idle {rate : Nat} {s : State} (hf : s.faulted = false) (hb : s.busy = false) (h : rate ≠ 0) :
    exec (.setSpeed rate) s =
      .next ((s.setTiming (fullOf (periodOf rate)) (halfOf (periodOf rate))).accept []) := by
  rw [exec, execSetSpeed, onCmdWrite_of_idle hf hb, if_neg h]

/-- A rejected SET_SPEED (R102). -/
theorem exec_setSpeed_zero {s : State} (hf : s.faulted = false) (hb : s.busy = false) :
    exec (.setSpeed 0) s = .next (s.reject .rateZero) := by
  rw [exec, execSetSpeed, onCmdWrite_of_idle hf hb, if_pos rfl]

/-- What an accepted SET_SPEED leaves in FULL and HALF, by the period of its rate (R101). -/
theorem timing_of_exec_setSpeed {rate : Nat} {s t : State} (hf : s.faulted = false) (hb : s.busy = false)
    (h : rate ≠ 0) (ht : exec (.setSpeed rate) s = .next t) :
    t.full = fullOf (periodOf rate) ∧ t.half = halfOf (periodOf rate) := by
  rw [exec_setSpeed_of_idle hf hb h] at ht
  cases ht
  exact ⟨rfl, rfl⟩

/-- Every command on a busy block is the overrun (R202, R203). -/
theorem exec_of_busy {i : Instr} {s : State} (hf : s.faulted = false) (hb : s.busy = true) :
    exec i s = .next s.overrun := by
  rw [← exec_gated, onCmdWrite_of_busy hf hb]

theorem acceptedWith_accept (l : List Event) (s : State) : AcceptedWith l (s.accept l) :=
  ⟨rfl, rfl, rfl, rfl, State.busy_accept l s⟩

theorem KeepsTheRest.refl (s : State) : KeepsTheRest s s :=
  ⟨rfl, rfl, rfl, rfl, rfl, rfl, rfl, rfl, rfl, rfl, rfl, rfl⟩

/-- BUF is no part of the rest. -/
theorem keepsTheRest_setBuf (b : Vector Byte 4) (s : State) : KeepsTheRest s (s.setBuf b) :=
  ⟨rfl, rfl, rfl, rfl, rfl, rfl, rfl, rfl, rfl, rfl, rfl, rfl⟩

/-- Acceptance writes REJ, CAUSE and the sequencer only (R149). -/
theorem KeepsTheRest.accept {s u : State} (h : KeepsTheRest s u) (l : List Event) : KeepsTheRest s (u.accept l) :=
  ⟨h.params, h.full, h.half, h.ackValid, h.ackA, h.ackD, h.pins, h.faulted, h.history, h.schedule, h.reply,
    h.drawCount⟩

/-- Settles O10. -/
theorem zeroRateIsRejected : Obligations.ZeroRateIsRejected := fun _ hf hb => exec_setSpeed_zero hf hb

/-- Settles O33. -/
theorem commandWhileBusyIsAnOverrun : Obligations.CommandWhileBusyIsAnOverrun := fun _ _ hf hb => exec_of_busy hf hb

/-- Settles O9: the word, the overrun, the rejection and the acceptance in turn. -/
theorem setSpeedSetsTheTimingPair : Obligations.SetSpeedSetsTheTimingPair := by
  intro rate s hf
  refine ⟨fun hlt => ?word, exec_of_busy hf, fun hb h0 => ?rejected, fun hb h0 => ?accepted⟩
  case word =>
    have hbits : (operandBits (.setSpeed rate)).toNat = rate := Nat.mod_eq_of_lt hlt
    rw [encode_toNat, hbits]
    simp [opOf]
  case rejected =>
    subst h0
    exact exec_setSpeed_zero hf hb
  case accepted =>
    have hle := periodOf_le rate
    refine ⟨_, exec_setSpeed_of_idle hf hb h0, fun hp => ⟨?_, ?_⟩, fun hp => ⟨?_, ?_⟩, acceptedWith_accept _ _, rfl,
      (KeepsTheRest.refl _).accept _⟩
    · exact (fullOf_toNat hle).trans (if_pos hp)
    · exact (halfOf_toNat hle).trans (if_pos hp)
    · exact (fullOf_toNat hle).trans (if_neg (Nat.not_le.mpr hp))
    · exact (halfOf_toNat hle).trans (if_neg (Nat.not_le.mpr hp))

/-- A larger period gives no smaller pair (R103). -/
theorem timing_mono {p q : Nat} (hpq : p ≤ q) (hq : q ≤ 1000000) :
    (fullOf p).toNat ≤ (fullOf q).toNat ∧ (halfOf p).toNat ≤ (halfOf q).toNat := by
  rw [fullOf_toNat hq, halfOf_toNat hq, fullOf_toNat (hpq.trans hq), halfOf_toNat (hpq.trans hq)]
  constructor <;> split <;> split <;> omega

/-- Settles O11: each law is one of the pair that the period gives. -/
theorem timingPairLaws : Obligations.TimingPairLaws := by
  intro r s t hr hf hb ht
  have hle := periodOf_le r
  obtain ⟨hfull, hhalf⟩ := timing_of_exec_setSpeed hf hb (by omega) ht
  have hfull' := fullOf_toNat hle
  have hhalf' := halfOf_toNat hle
  rw [hfull, hhalf]
  refine ⟨⟨?_, ?_, Nat.div_eq_zero_iff_lt (by decide)⟩, ?_, fun r' t' hrr ht' => ?_, fun hlo hhi => ?_⟩
  · rw [hfull']; split <;> omega
  · rw [hhalf']; split <;> omega
  · rw [hfull', hhalf']; split <;> omega
  · obtain ⟨hfull'', hhalf''⟩ := timing_of_exec_setSpeed hf hb (by omega) ht'
    rw [hfull'', hhalf'']
    exact timing_mono (Nat.div_le_div_left hrr hr) hle
  · have hp : periodOf r ≤ 5 := Nat.div_le_div_left hlo (by decide : 0 < 166667)
    interval_cases periodOf r <;> exact ⟨rfl, rfl⟩

/-- Settles O12: the rate's pair and the test of a pair are both the pairs of the periods, and the parameters meet their
constraints. -/
theorem reachableTimingPairsAreThePeriods : Obligations.ReachableTimingPairsAreThePeriods := by
  refine ⟨fun full half => ⟨?_, reachableTiming_iff full half⟩, ?_⟩
  · rw [← reachableTiming_iff]
    constructor
    · rintro ⟨r, hr, -, h⟩
      obtain ⟨t, ht, rfl, rfl⟩ := h State.reset rfl rfl
      obtain ⟨hfull, hhalf⟩ := timing_of_exec_setSpeed rfl rfl (by omega) ht
      rw [hfull, hhalf]
      exact reachableTiming_of_rate (by omega)
    · intro h
      obtain ⟨r, hr, hlt, hfull, hhalf⟩ := rate_of_reachableTiming h
      exact ⟨r, hr, hlt, fun s hf hb => ⟨_, exec_setSpeed_of_idle hf hb (by omega), hfull.symm, hhalf.symm⟩⟩
  · have hok := params_ok
    simp only [Params.ok, Bool.and_eq_true] at hok
    exact hok.2

end Sys2Proof.Machine
end

section
/-! The glyph table (42_glyph_encoder R132, R133), and the point bit of a pattern (R79). -/

namespace Sys2Proof.Machine

/-- Settles O25, over the 256 codes. -/
theorem encodeAgreesWithTheTable : Obligations.EncodeAgreesWithTheTable := by
  unfold Obligations.EncodeAgreesWithTheTable
  decide

/-- The glyph index that a row of the table gives a code is ENCODE of the code (R132). -/
theorem glyphIndex_of_mem_table {code : Byte} {g : Fin 31} (h : g.val ∈ glyphsByTable code) : glyphIndex code = g := by
  rw [encodeAgreesWithTheTable code, List.mem_singleton] at h
  exact Fin.ext h.symm

/-- A code in no row of the table for 0 to 29 is in its last row, whose index is 30 (R132). -/
theorem glyphIndex_of_no_row {code : Byte} (h : ∀ row ∈ glyphTable, ∀ r ∈ row.2, within r.1 r.2 code = false) :
    (glyphIndex code).val = 30 := by
  have hmem : (glyphIndex code).val ∈ glyphsByTable code := by
    rw [encodeAgreesWithTheTable code]
    exact List.mem_singleton_self _
  rw [glyphsByTable, List.mem_append, List.mem_flatMap] at hmem
  obtain ⟨row, hrow, hin⟩ | hblank := hmem
  · obtain ⟨r, hr, -⟩ := List.mem_map.mp hin
    obtain ⟨hr, hwithin⟩ := List.mem_filter.mp hr
    rw [h row hrow r hr] at hwithin
    cases hwithin
  · obtain ⟨-, -, heq⟩ := List.mem_map.mp hblank
    exact heq.symm

/-- Settles O26: (d) is `glyphIndex_of_no_row`, and every other law is a check of at most 256 codes. -/
theorem encodeLaws : Obligations.EncodeLaws :=
  ⟨fun code => Nat.le_of_lt_succ (glyphIndex code).isLt, by decide, by decide, fun _ => glyphIndex_of_no_row,
    by decide, by decide, by decide, by decide, by decide⟩

/-- Bit j of a pattern with its point set (R79). -/
theorem getLsbD_withPoint (v : Byte) (j : Nat) : (withPoint v).getLsbD j = (v.getLsbD j || decide (j = 7)) := by
  have hpoint : (0x80 : Byte) = BitVec.twoPow 8 7 := rfl
  rw [withPoint, hpoint, BitVec.getLsbD_or, BitVec.getLsbD_twoPow]
  simp [eq_comm]

/-- Setting a point that is set changes nothing (R152). -/
theorem withPoint_of_point {v : Byte} (h : v.getLsbD 7 = true) : withPoint v = v := by
  apply BitVec.eq_of_getLsbD_eq
  intro j _
  rw [getLsbD_withPoint]
  by_cases hj : j = 7
  · rw [hj, h]; rfl
  · simp [hj]

theorem withPoint_withPoint (v : Byte) : withPoint (withPoint v) = withPoint v :=
  withPoint_of_point (by rw [getLsbD_withPoint]; simp)

/-! ### The constraints of the parameters -/

/-- What the check of the parameters says, constraint by constraint (R22, R25, R84). -/
theorem Params.ok_iff (c : Params) :
    c.ok = true ↔ (∀ i : Fin 31, c.glyphRom[i].getLsbD 7 = false) ∧ c.glyphRom[30] = 0 ∧
      (∀ p q : Fin 4, c.digitAddr[p] = c.digitAddr[q] → p = q) ∧ (∀ p : Fin 4, c.digitAddr[p] ≠ c.sysCmdAddr) ∧
      reachableTiming c.resetFull c.resetHalf = true := by
  simp only [Params.ok, Params.romOk, Params.addressesOk, Bool.and_eq_true, decide_eq_true_eq, and_assoc,
    BitVec.msb_eq_getLsbD_last, Nat.reduceSub]

/-- Settles O47. -/
theorem parametersMeetTheirConstraints : Obligations.ParametersMeetTheirConstraints := by
  obtain ⟨hrom, hblank, hdigits, hsys, htiming⟩ := (Params.ok_iff _).mp params_ok
  obtain ⟨r, hr, -, hpair⟩ := rate_of_reachableTiming htiming
  exact ⟨hrom, hblank, fun p q hne heq => hne (hdigits p q heq), hsys, r, hr, hpair⟩

end Sys2Proof.Machine
end

section
/-! The buffer and display commands on an idle block (43_display_buffer R150 to R159): one equation per command, and
what storing and sending does. -/

namespace Sys2Proof.Machine

theorem cellIndex_eq {pos : Byte} {p : Fin 4} (h : p.val = pos.toNat % 4) : cellIndex pos = p :=
  Fin.ext ((cellIndex_val pos).trans h.symm)

section
variable {s : State} (hf : s.faulted = false) (hb : s.busy = false)
include hf hb

theorem exec_writeRaw_of_idle (pos pattern : Byte) :
    exec (.writeRaw pos pattern) s = .next (s.storeAndSend (cellIndex pos) pattern) := onCmdWrite_of_idle hf hb _

theorem exec_writeChar_of_idle (pos code : Byte) :
    exec (.writeChar pos code) s = .next (s.storeAndSend (cellIndex pos) (s.charByte (cellIndex pos) code)) :=
  onCmdWrite_of_idle hf hb _

theorem exec_writeCharWithPoint_of_idle (pos code : Byte) :
    exec (.writeCharWithPoint pos code) s = .next (s.storeAndSend (cellIndex pos) (withPoint (s.patternOf code))) :=
  onCmdWrite_of_idle hf hb _

theorem exec_displayOn_of_idle (bright : BitVec 3) :
    exec (.displayOn bright) s = .next (s.sendControl (s.dispOnData bright)) := onCmdWrite_of_idle hf hb _

theorem exec_displayOff_of_idle : exec .displayOff s = .next (s.sendControl s.params.dispOffData) :=
  onCmdWrite_of_idle hf hb _

theorem exec_displayClear_of_idle : exec .displayClear s = .next (s.clearCells.accept s.clearFrames) :=
  onCmdWrite_of_idle hf hb _

end

theorem State.charByte_point (s : State) (p : Fin 4) : s.charByte p 0x2E = withPoint (s.cell p) := rfl

theorem State.charByte_of_ne {code : Byte} (h : code ≠ 0x2E) (s : State) (p : Fin 4) :
    s.charByte p code = s.patternOf code := if_neg h

@[simp] theorem State.storeAndSend_cell_self (p : Fin 4) (v : Byte) (s : State) : (s.storeAndSend p v).cell p = v :=
  s.cell_writeCell_self p v

theorem State.storeAndSend_cell_of_ne {p q : Fin 4} (h : q ≠ p) (v : Byte) (s : State) :
    (s.storeAndSend p v).cell q = s.cell q := State.cell_writeCell_of_ne h v s

/-- Storing a byte and sending it: the cell, the other cells, the frame, and everything else (R149 to R153). -/
theorem State.storeAndSend_spec (p : Fin 4) (v : Byte) (s : State) :
    (s.storeAndSend p v).cell p = v ∧ (∀ q, q ≠ p → (s.storeAndSend p v).cell q = s.cell q) ∧
    AcceptedWith (frame s.full s.half s.params.digitAddr[p] v) (s.storeAndSend p v) ∧
    KeepsTheRest s (s.storeAndSend p v) :=
  ⟨s.storeAndSend_cell_self p v, fun _ hq => State.storeAndSend_cell_of_ne hq v s, acceptedWith_accept _ _,
    (keepsTheRest_setBuf _ s).accept _⟩

/-- Settles O13: the word by its fields, the words with a reserved field, the overrun, and the store. -/
theorem writeRawStoresAndSends : Obligations.WriteRawStoresAndSends := by
  intro pos pattern p s hp hf
  refine ⟨?word, fun w hop hz => ?reserved, exec_of_busy hf, fun hb => ?stored⟩
  case word =>
    have hbits : (operandBits (.writeRaw pos pattern)).toNat = pos.toNat * 2 ^ 8 + pattern.toNat :=
      formatP_toNat pos pattern
    rw [encode_toNat, hbits, ← add_assoc]
    simp [opOf]
  case reserved =>
    have hop' : opField w = 0x02 := BitVec.eq_of_toNat_eq ((opField_toNat w).trans hop)
    have hz' : zField w ≠ 0 := fun h => hz (by rw [← zField_toNat, h]; rfl)
    have hformat : decode w = decodeP .writeRaw w := by simp [decode, hop']
    rw [hformat, decodeP, if_neg hz']
  case stored =>
    rw [exec_writeRaw_of_idle hf hb, cellIndex_eq hp]
    exact ⟨_, rfl, s.storeAndSend_spec p pattern⟩

/-- Settles O14. -/
theorem writeCharStoresTheGlyph : Obligations.WriteCharStoresTheGlyph := by
  intro pos code p g s hp hcode hg hf hb
  obtain rfl := glyphIndex_of_mem_table hg
  rw [exec_writeChar_of_idle hf hb, cellIndex_eq hp, State.charByte_of_ne hcode]
  exact ⟨_, rfl, s.storeAndSend_spec p (s.patternOf code)⟩

/-- Settles O16. -/
theorem writeCharWithPointSetsThePoint : Obligations.WriteCharWithPointSetsThePoint := by
  intro pos code p g s hp hg hf hb
  obtain rfl := glyphIndex_of_mem_table hg
  rw [exec_writeCharWithPoint_of_idle hf hb, cellIndex_eq hp]
  exact ⟨_, rfl, s.storeAndSend_spec p (withPoint (s.patternOf code))⟩

/-- Settles O15: the byte stored is the old cell with its point set. -/
theorem writeCharPointKeepsTheGlyph : Obligations.WriteCharPointKeepsTheGlyph := by
  intro pos p s hp hf hb
  rw [exec_writeChar_of_idle hf hb, cellIndex_eq hp, State.charByte_point]
  obtain ⟨hself, hother, haccept, hrest⟩ := s.storeAndSend_spec p (withPoint (s.cell p))
  refine ⟨_, rfl, ?_⟩
  rw [hself]
  refine ⟨fun j hj => ?_, ?_, withPoint_of_point, fun h0 => by rw [h0]; rfl, hother, haccept, hrest⟩
  · rw [getLsbD_withPoint, decide_eq_false hj.ne, Bool.or_false]
  · rw [getLsbD_withPoint, decide_eq_true rfl, Bool.or_true]

/-- Settles O27: ENCODE of '.' is the blank index, whose pattern is 0. -/
theorem pointCharacterStoresALitBlank : Obligations.PointCharacterStoresALitBlank := by
  intro pos p s hp hok hf hb
  obtain ⟨-, hblank, -⟩ := (Params.ok_iff _).mp hok
  have hglyph : glyphIndex 0x2E = 30 := by decide
  refine ⟨hglyph, by rw [hblank]; rfl, _, exec_writeCharWithPoint_of_idle hf hb pos 0x2E, ?_⟩
  rw [cellIndex_eq hp, State.storeAndSend_cell_self, State.patternOf, hglyph]
  rfl

/-- Settles O17. -/
theorem displayOnSendsTheBrightness : Obligations.DisplayOnSendsTheBrightness := by
  intro bright b s hb' hf hb
  obtain rfl : bright.toFin = b := Fin.ext hb'.symm
  exact ⟨_, exec_displayOn_of_idle hf hb bright, rfl, acceptedWith_accept _ _, (KeepsTheRest.refl s).accept _⟩

/-- Settles O18. -/
theorem displayOffSendsTheOffByte : Obligations.DisplayOffSendsTheOffByte :=
  fun s hf hb => ⟨_, exec_displayOff_of_idle hf hb, rfl, acceptedWith_accept _ _, (KeepsTheRest.refl s).accept _⟩

theorem length_clearFrames (s : State) : s.clearFrames.length = 484 := by
  simp [State.clearFrames, State.frameTo]

/-- Four frames last four times as long as one (R158, R239). -/
theorem duration_clearFrames (s : State) : duration s.clearFrames = 92 * s.full.toNat + 136 * s.half.toNat := by
  simp only [State.clearFrames, State.frameTo, duration_append, duration_frame]
  omega

/-- Settles O19. -/
theorem displayClearBlanksEveryDigit : Obligations.DisplayClearBlanksEveryDigit := by
  intro s hf hb
  exact ⟨_, exec_displayClear_of_idle hf hb, s.cell_clearCells, acceptedWith_accept _ _, length_clearFrames s,
    duration_clearFrames s, (keepsTheRest_setBuf _ s).accept _⟩

/-- The frames of DISPLAY_CLEAR depend on the parameters and the timing alone (R156). -/
theorem State.clearFrames_congr {s u : State} (hp : u.params = s.params) (hfull : u.full = s.full)
    (hhalf : u.half = s.half) : u.clearFrames = s.clearFrames := by
  simp only [State.clearFrames, State.frameTo, State.digitAddr, hp, hfull, hhalf]

/-- Settles O20: the cells written are fixed, and the frames are those of the same parameters and timing. -/
theorem displayClearTwiceIsOnce : Obligations.DisplayClearTwiceIsOnce := by
  intro s t u v hf hb ht huf hub hp hfull hhalf hv
  rw [exec_displayClear_of_idle hf hb] at ht
  cases ht
  rw [exec_displayClear_of_idle huf hub] at hv
  cases hv
  exact ⟨rfl, State.clearFrames_congr hp hfull hhalf⟩

/-- The mask of a position leaves its cell (R55). -/
theorem cellIndex_and_three (pos : Byte) : cellIndex (pos &&& 3) = cellIndex pos := by
  revert pos; decide

/-- Settles O21: a position comes into a command by its cell alone. -/
theorem positionsAreMasked : Obligations.PositionsAreMasked := by
  intro pos x s
  have hmask := cellIndex_and_three pos
  refine ⟨?_, ?_, ?_, fun q hq t ht => ?_⟩
  · simp only [exec, execWriteRaw, hmask]
  · simp only [exec, execWriteChar, hmask]
  · simp only [exec, execWriteCharWithPoint, hmask]
  · obtain ⟨-, ⟨-, rfl⟩ | ⟨-, hstore⟩⟩ := onCmdWrite_eq_next ht
    · rfl
    · cases hstore
      exact State.storeAndSend_cell_of_ne (fun h => hq (by rw [h, cellIndex_val])) x s

end Sys2Proof.Machine
end

section
/-! The frames of a command (43_display_buffer R157 to R159): what every command that is accepted sends, stores and
keeps. -/

namespace Sys2Proof.Machine

/-- The events of a command's frames, one frame after the other (R150 to R157). -/
def State.frameEvents (s : State) (i : Instr) : List Event :=
  (s.framesOf i).flatMap fun f => frame s.full s.half f.1 f.2

/-- Everything an accepted command does but to BUF and the timing: its own frames are loaded, and the rest is kept
(R101, R149 to R157). -/
theorem exec_accepted {i : Instr} {s : State} (hf : s.faulted = false) (hb : s.busy = false) (hi : i ≠ .setSpeed 0) :
    ∃ t, exec i s = .next t ∧ AcceptedWith (s.frameEvents i) t ∧ KeepsTheRest (s.setTiming t.full t.half) t := by
  have stored : ∀ (pos v : Byte), ∃ t, .next (s.storeAndSend (cellIndex pos) v) = (.next t : Result) ∧
      AcceptedWith ([(s.params.digitAddr[positionOf pos], v)].flatMap fun f => frame s.full s.half f.1 f.2) t ∧
      KeepsTheRest (s.setTiming t.full t.half) t := by
    intro pos v
    rw [cellIndex_eq_positionOf, List.flatMap_singleton]
    exact ⟨_, rfl, acceptedWith_accept _ _, (keepsTheRest_setBuf _ s).accept _⟩
  cases i with
  | setSpeed rate =>
    have h0 : rate ≠ 0 := fun h => hi (by rw [h])
    exact ⟨_, exec_setSpeed_of_idle hf hb h0, acceptedWith_accept _ _, (KeepsTheRest.refl _).accept _⟩
  | writeRaw pos pattern =>
    rw [exec_writeRaw_of_idle hf hb]
    exact stored pos pattern
  | writeChar pos code =>
    have h := stored pos (s.charByte (cellIndex pos) code)
    rw [exec_writeChar_of_idle hf hb]
    rw [cellIndex_eq_positionOf] at h ⊢
    exact h
  | writeCharWithPoint pos code =>
    rw [exec_writeCharWithPoint_of_idle hf hb]
    exact stored pos _
  | displayOn bright =>
    rw [exec_displayOn_of_idle hf hb, State.frameEvents, State.framesOf, List.flatMap_singleton]
    exact ⟨_, rfl, acceptedWith_accept _ _, (KeepsTheRest.refl s).accept _⟩
  | displayOff =>
    rw [exec_displayOff_of_idle hf hb, State.frameEvents, State.framesOf, List.flatMap_singleton]
    exact ⟨_, rfl, acceptedWith_accept _ _, (KeepsTheRest.refl s).accept _⟩
  | displayClear =>
    have hframes : s.frameEvents .displayClear = s.clearFrames := by
      simp [State.frameEvents, State.framesOf, State.clearFrames, State.frameTo, State.digitAddr]
    rw [exec_displayClear_of_idle hf hb, hframes]
    exact ⟨_, rfl, acceptedWith_accept _ _, (keepsTheRest_setBuf _ s).accept _⟩

/-- Every command but SET_SPEED begins with the fall of the data line in its first frame's start condition (R112). -/
theorem State.frameEvents_head (s : State) {i : Instr} (hi : ∀ rate, i ≠ .setSpeed rate) :
    (s.frameEvents i)[0]? = some (.setDio false) := by
  cases i with
  | setSpeed rate => exact absurd rfl (hi rate)
  | writeRaw | writeChar | writeCharWithPoint | displayOn | displayOff | displayClear => rfl

/-- One frame for every command but SET_SPEED, and four for DISPLAY_CLEAR (R158). -/
theorem State.length_framesOf (s : State) {i : Instr} (hi : ∀ rate, i ≠ .setSpeed rate) :
    (s.framesOf i).length = if i = .displayClear then 4 else 1 := by
  cases i with
  | setSpeed rate => exact absurd rfl (hi rate)
  | writeRaw | writeChar | writeCharWithPoint | displayOn | displayOff | displayClear => rfl

/-- Settles O22: the frames are loaded at acceptance, and the engine's next step performs the first event. -/
theorem everyCommandStartsItsFramesAtOnce : Obligations.EveryCommandStartsItsFramesAtOnce := by
  intro i s hi hf hb
  obtain ⟨t, ht, haccept, hrest⟩ := exec_accepted hf hb (hi 0)
  have hhead := s.frameEvents_head hi
  have hne : s.frameEvents i ≠ [] := fun h => by rw [h] at hhead; cases hhead
  have hevent : t.seqEvents[t.seqPc]? = some (.setDio false) := by rw [haccept.events, haccept.pc, hhead]
  refine ⟨t, ht, s.length_framesOf hi, haccept.events, haccept.pc, ?_, _,
    step_of_event (s := t.setSchedule []) (hrest.faulted.trans hf) hevent (.inl ⟨rfl, rfl⟩), ?_, ?_⟩
  · rw [haccept.busy, decide_eq_true hne]
  · simp [haccept.pc]
  · simp [hrest.history, State.drawFor]

/-- A second WRITE_CHAR of '.' from a state with the same cells, parameters and timing finds the point set (R152). -/
theorem storeAndSend_point_again {s u : State} (p : Fin 4)
    (hbuf : u.buf = (s.storeAndSend p (withPoint (s.cell p))).buf) (hp : u.params = s.params)
    (hfull : u.full = s.full) (hhalf : u.half = s.half) :
    (u.storeAndSend p (withPoint (u.cell p))).buf = (s.storeAndSend p (withPoint (s.cell p))).buf ∧
    (u.storeAndSend p (withPoint (u.cell p))).seqEvents = (s.storeAndSend p (withPoint (s.cell p))).seqEvents := by
  have hcell : withPoint (u.cell p) = withPoint (s.cell p) := by
    rw [State.cell_congr hbuf, State.storeAndSend_cell_self, withPoint_withPoint]
  rw [hcell]
  refine ⟨?_, ?_⟩
  · show u.buf.set p (withPoint (s.cell p)) = s.buf.set p (withPoint (s.cell p))
    rw [hbuf]
    exact Vector.set_set ..
  · show frame u.full u.half u.params.digitAddr[p] _ = frame s.full s.half s.params.digitAddr[p] _
    rw [hp, hfull, hhalf]

/-- What one of the three position commands stores, it stores in its own cell (R150 to R153). -/
theorem exec_position_eq {pos x : Byte} {p : Fin 4} {s t : State} (hp : p.val = pos.toNat % 4)
    (hf : s.faulted = false) (hb : s.busy = false)
    (h : exec (.writeRaw pos x) s = .next t ∨ exec (.writeChar pos x) s = .next t ∨
      exec (.writeCharWithPoint pos x) s = .next t) : ∃ v, t = s.storeAndSend p v := by
  rw [exec_writeRaw_of_idle hf hb, exec_writeChar_of_idle hf hb, exec_writeCharWithPoint_of_idle hf hb,
    cellIndex_eq hp] at h
  obtain h | h | h := h <;> cases h <;> exact ⟨_, rfl⟩

/-- Settles O23, law by law. -/
theorem bufferWriteLaws : Obligations.BufferWriteLaws := by
  intro pos x p s t hp hok hf hb
  obtain ⟨hrom, -⟩ := (Params.ok_iff _).mp hok
  refine ⟨fun hx ht => ?glyph, fun ht => ?glyphWithPoint, fun ht u v huf hub hpar hfull hhalf hbuf hv => ?pointTwice,
    fun ht => ?ownCell, fun ht => ?clear, fun b ht => ?control⟩
  case glyph =>
    rw [exec_writeChar_of_idle hf hb, cellIndex_eq hp, State.charByte_of_ne hx] at ht
    cases ht
    rw [State.storeAndSend_cell_self]
    exact hrom (glyphIndex x)
  case glyphWithPoint =>
    rw [exec_writeCharWithPoint_of_idle hf hb, cellIndex_eq hp] at ht
    cases ht
    rw [State.storeAndSend_cell_self, getLsbD_withPoint, decide_eq_true rfl, Bool.or_true]
  case pointTwice =>
    rw [exec_writeChar_of_idle hf hb, cellIndex_eq hp, State.charByte_point] at ht
    cases ht
    rw [exec_writeChar_of_idle huf hub, cellIndex_eq hp, State.charByte_point] at hv
    cases hv
    exact storeAndSend_point_again p hbuf hpar hfull hhalf
  case ownCell =>
    obtain ⟨v, rfl⟩ := exec_position_eq hp hf hb ht
    obtain ⟨hself, hother, haccept, -⟩ := s.storeAndSend_spec p v
    exact ⟨hother, by rw [haccept.events, hself]⟩
  case clear =>
    rw [exec_displayClear_of_idle hf hb] at ht
    cases ht
    refine ⟨s.cell_clearCells, ?_⟩
    show s.clearFrames = [0, 1, 2, 3].flatMap fun q : Fin 4 =>
      frame s.full s.half s.params.digitAddr[q] (s.clearCells.cell q)
    simp [State.clearFrames, State.frameTo, State.digitAddr]
  case control =>
    rw [exec_displayOn_of_idle hf hb, exec_displayOff_of_idle hf hb] at ht
    obtain ht | ht := ht <;> cases ht <;> exact ⟨_, rfl⟩

end Sys2Proof.Machine
end

section
/-! The words of the host's registers (10_state R26, R32; 20_memory R53). -/

namespace Sys2Proof.Machine

/-- STATUS as a number: the fields at their weights (R26). -/
theorem State.statusWord_toNat (s : State) : s.statusWord.toNat =
    s.status.ackD.toNat * 64 + s.status.ackA.toNat * 32 + s.status.ackValid.toNat * 16 + s.status.cause.code.toNat * 4 +
      s.status.rej.toNat * 2 + s.busy.toNat := by
  simp only [State.statusWord, append_toNat, BitVec.toNat_ofBool, BitVec.toNat_ofNat]
  omega

/-- PINS as a number (R32). -/
theorem State.pinsWord_toNat (s : State) :
    s.pinsWord.toNat = s.pins.dioOe.toNat * 4 + s.pins.dioOut.toNat * 2 + s.pins.clkOut.toNat := by
  simp only [State.pinsWord, append_toNat, BitVec.toNat_ofBool, BitVec.toNat_ofNat]
  omega

/-- BUF_WORD as a number (R53). -/
theorem State.bufWord_toNat (s : State) : s.bufWord.toNat =
    (s.cell 3).toNat * 2 ^ 24 + (s.cell 2).toNat * 2 ^ 16 + (s.cell 1).toNat * 2 ^ 8 + (s.cell 0).toNat := by
  simp only [State.bufWord, append_toNat]
  omega

/-- A word below 2^k has no bit from k up. -/
theorem getLsbD_eq_false_of_lt {w : Word} {k j : Nat} (h : w.toNat < 2 ^ k) (hj : k ≤ j) : w.getLsbD j = false :=
  Nat.testBit_lt_two_pow (h.trans_le (Nat.pow_le_pow_right Nat.two_pos hj))

theorem Cause.code_toNat (c : Cause) :
    c.code.toNat = match c with | .none => 0 | .illegalEncoding => 1 | .rateZero => 2 := by
  cases c <;> rfl

/-- Settles O28: the bits by the parts of the word, CAUSE and the reserved bits by its number. -/
theorem statusWordLayout : Obligations.StatusWordLayout := by
  intro s
  have hnum := s.statusWord_toNat
  have hcode := s.status.cause.code.isLt
  have hD := s.status.ackD.toNat_le
  have hA := s.status.ackA.toNat_le
  have hvalid := s.status.ackValid.toNat_le
  have hrej := s.status.rej.toNat_le
  have hbusy := s.busy.toNat_le
  refine ⟨?busy, ?rej, ?cause, ?ackValid, ?ackA, ?ackD, fun j hj => getLsbD_eq_false_of_lt (k := 7) (by omega) hj⟩
  case cause => exact Eq.trans (by omega) s.status.cause.code_toNat
  all_goals simp only [State.statusWord, BitVec.getLsbD_append]
  all_goals simp [State.busy]

/-- Settles O44: BUF_WORD and the reserved bits of PINS by their numbers, the other bits by the parts of the word. -/
theorem packedRegisterLayouts : Obligations.PackedRegisterLayouts := by
  intro s
  have hnum := s.pinsWord_toNat
  have hclk := s.pins.clkOut.toNat_le
  have hout := s.pins.dioOut.toNat_le
  have hoe := s.pins.dioOe.toNat_le
  refine ⟨fun i => ?cell, ?clk, ?out, ?oe, fun j hj => getLsbD_eq_false_of_lt (k := 3) (by omega) hj⟩
  case cell =>
    have hcells : ∀ p, (s.cell p).toNat < 2 ^ 8 := fun p => (s.cell p).isLt
    have h0 := hcells 0
    have h1 := hcells 1
    have h2 := hcells 2
    have h3 := hcells 3
    apply BitVec.eq_of_toNat_eq
    rw [BitVec.extractLsb'_toNat, Nat.shiftRight_eq_div_pow, s.bufWord_toNat]
    fin_cases i <;> dsimp <;> omega
  all_goals simp only [State.pinsWord, BitVec.getLsbD_append]
  all_goals simp

/-- Settles O46: the reset state is written out field by field. -/
theorem resetStateOfTheSpec : Obligations.ResetStateOfTheSpec :=
  ⟨by decide, by decide, by decide, rfl, rfl, rfl, rfl, rfl, rfl⟩

end Sys2Proof.Machine
end

section
/-! The step, turn by turn (10_state R12, R32; 60_exceptions R203, R213, R214): what it answers for each next turn, and
where it stops. -/

namespace Sys2Proof.Machine

/-- A step takes the first turn of the schedule (R12). -/
theorem step_of_turn {s : State} {t : Turn} {rest : List Turn} (hs : s.schedule = t :: rest) :
    step s = takeTurn t (s.setSchedule rest) := by
  unfold step
  rw [hs]

theorem step_of_reset {s : State} {rest : List Turn} (hs : s.schedule = .reset :: rest) :
    step s = .next (s.setSchedule rest).applyReset := step_of_turn hs

/-- Once FAULTED = 1 nothing but a reset is processed (R203). -/
theorem step_of_faulted {s : State} (hf : s.faulted = true) (hs : ∀ rest, s.schedule ≠ .reset :: rest) :
    step s = .fault .hostOverrun := by
  cases hsched : s.schedule with
  | nil =>
    unfold step
    rw [hsched]
    exact whenEnabled_of_faulted hf _
  | cons t rest =>
    have hf' : (s.setSchedule rest).faulted = true := hf
    rw [step_of_turn hsched]
    cases t with
    | reset => exact absurd hsched (hs rest)
    | write | read | waitIdle | engine => exact whenEnabled_of_faulted hf' _

section
variable {s : State} {rest : List Turn} (hf : s.faulted = false)
include hf

theorem step_of_empty (hs : s.schedule = []) : step s = engineTurn s := by
  unfold step
  rw [hs]
  exact whenEnabled_of_enabled hf _

theorem step_of_engine (hs : s.schedule = .engine :: rest) : step s = engineTurn (s.setSchedule rest) := by
  rw [step_of_turn hs]
  exact whenEnabled_of_enabled (s := s.setSchedule rest) hf _

/-- While BUSY = 1 a polling host stays, and the engine moves (R62, R214). -/
theorem step_of_waitIdle_of_busy (hs : s.schedule = .waitIdle :: rest) (hb : s.busy = true) :
    step s = engineTurn s := by
  have hself : (s.setSchedule rest).setSchedule (.waitIdle :: rest) = s := by rw [← hs]; rfl
  rw [step_of_turn hs]
  exact (whenEnabled_of_enabled (s := s.setSchedule rest) hf _).trans
    ((if_pos hb).trans (congrArg engineTurn hself))

theorem step_of_waitIdle_of_idle (hs : s.schedule = .waitIdle :: rest) (hb : s.busy = false) :
    step s = .next (s.setSchedule rest) := by
  rw [step_of_turn hs]
  exact (whenEnabled_of_enabled (s := s.setSchedule rest) hf _).trans (if_neg (Bool.eq_false_iff.mp hb))

theorem step_of_write {offset size : Nat} {w : Word} (hs : s.schedule = .write offset size w :: rest) :
    step s = hostWrite offset size w (s.setSchedule rest) := by
  rw [step_of_turn hs]
  exact whenEnabled_of_enabled (s := s.setSchedule rest) hf _

theorem step_of_read {offset size : Nat} (hs : s.schedule = .read offset size :: rest) :
    step s = hostRead offset size (s.setSchedule rest) := by
  rw [step_of_turn hs]
  exact whenEnabled_of_enabled (s := s.setSchedule rest) hf _

end

/-! ### The register window -/

/-- The byte offset of a register (R32): the inverse of `HostReg.at?`. -/
def HostReg.offset : HostReg → Nat
  | .cmd => 0x00
  | .status => 0x04
  | .full => 0x08
  | .half => 0x0C
  | .bufWord => 0x10
  | .pins => 0x14

theorem HostReg.at?_eq_some {offset : Nat} {r : HostReg} (h : HostReg.at? offset = some r) : offset = r.offset := by
  unfold HostReg.at? at h
  repeat' split at h
  all_goals cases h
  all_goals assumption

/-- Every register's offset is in the window, and every register's but CMD's is readable (R32). -/
theorem HostReg.offset_mem (r : HostReg) : r.offset ∈ [0x00, 0x04, 0x08, 0x0C, 0x10, 0x14] := by
  cases r <;> decide

theorem HostReg.offset_mem_readable {r : HostReg} (h : r ≠ .cmd) : r.offset ∈ [0x04, 0x08, 0x0C, 0x10, 0x14] := by
  cases r with
  | cmd => exact absurd rfl h
  | status | full | half | bufWord | pins => decide

theorem size_of_alignedWord {offset size : Nat} (h : alignedWord offset size = true) : size = 4 := by
  simp only [alignedWord, Bool.and_eq_true, decide_eq_true_eq] at h
  exact h.1

/-- A write to one of the five read-only registers has no effect (R32). -/
theorem hostWrite_readOnly {offset : Nat} (h : offset ∈ [0x04, 0x08, 0x0C, 0x10, 0x14]) (w : Word) (s : State) :
    hostWrite offset 4 w s = .next s := by
  simp only [List.mem_cons, List.not_mem_nil, or_false] at h
  obtain rfl | rfl | rfl | rfl | rfl := h <;> rfl

/-- A read of one of the five readable registers returns its word, and has no other effect (R32, R58). -/
theorem hostRead_readable {offset : Nat} {w : Word} {s : State}
    (h : (offset, w) ∈ [(0x04, s.statusWord), (0x08, s.full), (0x0C, s.half), (0x10, s.bufWord), (0x14, s.pinsWord)]) :
    hostRead offset 4 s = .next (s.setReply w) := by
  simp only [List.mem_cons, List.not_mem_nil, or_false, Prod.mk.injEq] at h
  obtain ⟨rfl, rfl⟩ | ⟨rfl, rfl⟩ | ⟨rfl, rfl⟩ | ⟨rfl, rfl⟩ | ⟨rfl, rfl⟩ := h <;> rfl

/-- Settles O43. -/
theorem hostReadsAndReadOnlyWrites : Obligations.HostReadsAndReadOnlyWrites := by
  intro s rest hf
  refine ⟨fun offset w hs hmem => ?_, fun offset w hs hmem => ?_⟩
  · rw [step_of_read hf hs]
    exact hostRead_readable hmem
  · rw [step_of_write hf hs]
    exact hostWrite_readOnly hmem w _

@[simp] theorem State.statusWord_applyReset (s : State) : s.applyReset.statusWord = 0 := by
  simp only [State.statusWord, State.applyReset_status, State.busy_applyReset]
  decide

/-- Settles O45. -/
theorem resetRestoresTheBlock : Obligations.ResetRestoresTheBlock :=
  fun _ _ hs => ⟨_, step_of_reset hs, rfl, rfl, State.statusWord_applyReset _⟩

/-- Settles O6: the turn is taken off the schedule, and the word submitted. -/
theorem stepRunsTheSubmittedCommand : Obligations.StepRunsTheSubmittedCommand := by
  intro s w i hd
  have hword : tableWord 32 w.toNat = w := by
    rw [tableWord, Nat.mod_eq_of_lt w.isLt, BitVec.ofNat_toNat, BitVec.setWidth_eq]
  refine ⟨?_, fun rest hs => ?_⟩
  · rw [State.withFetchWord, hword, step_of_cmdWrite rfl, submit_of_ok hd]
    rfl
  · rw [step_of_cmdWrite hs, submit_of_ok hd]

/-- An idle engine's turn changes nothing (R213). -/
theorem engineTurn_of_idle {s : State} (hb : s.busy = false) : engineTurn s = .next s := by
  obtain ⟨e, hb', -⟩ | ⟨-, h⟩ := engineTurn_cases s
  · rw [hb] at hb'; cases hb'
  · exact h

/-- Settles O8, turn by turn. -/
theorem idleMachineStaysAsItIs : Obligations.IdleMachineStaysAsItIs := by
  intro s hf hb
  refine ⟨fun hs => ?_, fun rest hs => ?_⟩
  · rw [step_of_empty hf hs, engineTurn_of_idle hb]
  · obtain hs | hs := hs
    · rw [step_of_engine hf hs]
      exact engineTurn_of_idle (s := s.setSchedule rest) hb
    · exact step_of_waitIdle_of_idle hf hs hb

/-! ### Where a step stops -/

/-- Every command on an enabled block answers a next state (R149, R203). -/
theorem exec_of_enabled {s : State} (hf : s.faulted = false) (i : Instr) : ∃ t, exec i s = .next t := by
  cases hb : s.busy with
  | true => exact ⟨_, exec_of_busy hf hb⟩
  | false =>
    by_cases hi : i = .setSpeed 0
    · exact ⟨_, hi ▸ exec_setSpeed_zero hf hb⟩
    · obtain ⟨t, ht, -⟩ := exec_accepted hf hb hi
      exact ⟨t, ht⟩

/-- No command word stops the block (R149, R201). -/
theorem submit_of_enabled {s : State} (hf : s.faulted = false) (w : Word) : ∃ t, submit w s = .next t := by
  cases hd : decode w with
  | ok i =>
    rw [submit_of_ok hd]
    exact exec_of_enabled hf i
  | error e =>
    cases hb : s.busy with
    | true => exact ⟨_, onCmdWrite_of_busy hf hb _⟩
    | false => exact ⟨_, submit_of_error hd hf hb⟩

theorem engineTurn_answers (s : State) : ∃ t, engineTurn s = .next t := by
  obtain ⟨e, -, -, h⟩ | ⟨-, h⟩ := engineTurn_cases s <;> exact ⟨_, h⟩

theorem hostWrite_of_enabled {s : State} (hf : s.faulted = false) {offset size : Nat} (w : Word)
    (h : size = 4 ∧ offset ∈ [0x00, 0x04, 0x08, 0x0C, 0x10, 0x14]) : ∃ t, hostWrite offset size w s = .next t := by
  obtain ⟨rfl, hmem⟩ := h
  obtain rfl | hmem := List.mem_cons.mp hmem
  · exact submit_of_enabled hf w
  · exact ⟨s, hostWrite_readOnly hmem w s⟩

theorem hostWrite_refused {offset size : Nat} (w : Word) (s : State)
    (h : ¬ (size = 4 ∧ offset ∈ [0x00, 0x04, 0x08, 0x0C, 0x10, 0x14])) :
    ∃ r, hostWrite offset size w s = .refused r := by
  unfold hostWrite
  split
  · next ha =>
    cases hr : HostReg.at? offset with
    | none => exact ⟨_, rfl⟩
    | some r => exact absurd ⟨size_of_alignedWord ha, HostReg.at?_eq_some hr ▸ r.offset_mem⟩ h
  · exact ⟨_, rfl⟩

theorem hostRead_answers {offset size : Nat} (s : State) (h : size = 4 ∧ offset ∈ [0x04, 0x08, 0x0C, 0x10, 0x14]) :
    ∃ w, hostRead offset size s = .next (s.setReply w) := by
  obtain ⟨rfl, hmem⟩ := h
  simp only [List.mem_cons, List.not_mem_nil, or_false] at hmem
  obtain rfl | rfl | rfl | rfl | rfl := hmem <;> exact ⟨_, rfl⟩

theorem hostRead_refused {offset size : Nat} (s : State) (h : ¬ (size = 4 ∧ offset ∈ [0x04, 0x08, 0x0C, 0x10, 0x14])) :
    ∃ r, hostRead offset size s = .refused r := by
  unfold hostRead
  split
  · next ha =>
    cases hr : HostReg.at? offset with
    | none => exact ⟨_, rfl⟩
    | some r =>
      by_cases hcmd : r = .cmd
      · subst hcmd
        exact ⟨_, rfl⟩
      · exact absurd ⟨size_of_alignedWord ha, HostReg.at?_eq_some hr ▸ HostReg.offset_mem_readable hcmd⟩ h
  · exact ⟨_, rfl⟩

/-- The next turn is a host access that R32 rules out. -/
def State.BadAccess (s : State) : Prop :=
  (∃ offset size data rest, s.schedule = .write offset size data :: rest ∧
    ¬ (size = 4 ∧ offset ∈ [0x00, 0x04, 0x08, 0x0C, 0x10, 0x14])) ∨
  (∃ offset size rest, s.schedule = .read offset size :: rest ∧
    ¬ (size = 4 ∧ offset ∈ [0x04, 0x08, 0x0C, 0x10, 0x14]))

theorem step_of_badAccess {s : State} (hf : s.faulted = false) (h : s.BadAccess) : ∃ r, step s = .refused r := by
  obtain ⟨offset, size, w, rest, hs, hbad⟩ | ⟨offset, size, rest, hs, hbad⟩ := h
  · rw [step_of_write hf hs]
    exact hostWrite_refused w _ hbad
  · rw [step_of_read hf hs]
    exact hostRead_refused _ hbad

/-- Every other step of an enabled block answers a next state (R12). -/
theorem step_of_enabled {s : State} (hf : s.faulted = false) (h : ¬ s.BadAccess) : ∃ t, step s = .next t := by
  cases hs : s.schedule with
  | nil =>
    rw [step_of_empty hf hs]
    exact engineTurn_answers s
  | cons t rest =>
    cases t with
    | reset => exact ⟨_, step_of_reset hs⟩
    | engine =>
      rw [step_of_engine hf hs]
      exact engineTurn_answers _
    | waitIdle =>
      cases hb : s.busy with
      | true =>
        rw [step_of_waitIdle_of_busy hf hs hb]
        exact engineTurn_answers s
      | false => exact ⟨_, step_of_waitIdle_of_idle hf hs hb⟩
    | write offset size w =>
      rw [step_of_write hf hs]
      refine hostWrite_of_enabled (s := s.setSchedule rest) hf w ?_
      by_contra hbad
      exact h (.inl ⟨offset, size, w, rest, hs, hbad⟩)
    | read offset size =>
      rw [step_of_read hf hs]
      have hgood : size = 4 ∧ offset ∈ [0x04, 0x08, 0x0C, 0x10, 0x14] := by
        by_contra hbad
        exact h (.inr ⟨offset, size, rest, hs, hbad⟩)
      obtain ⟨w, hw⟩ := hostRead_answers (s.setSchedule rest) hgood
      exact ⟨_, hw⟩

/-- Settles O7: a faulted block stops unless a reset comes, an enabled one exactly at a bad access. -/
theorem stepStopsOnlyWhereTheSpecSays : Obligations.StepStopsOnlyWhereTheSpecSays := by
  intro s
  show _ ∧ ((∃ r, step s = .refused r) ↔ s.faulted = false ∧ s.BadAccess)
  cases hf : s.faulted with
  | true =>
    by_cases hreset : ∃ rest, s.schedule = .reset :: rest
    · obtain ⟨rest, hs⟩ := hreset
      simp [step_of_reset hs, hs]
    · have hs : ∀ rest, s.schedule ≠ .reset :: rest := fun rest h => hreset ⟨rest, h⟩
      simp [step_of_faulted hf hs, hs]
  | false =>
    by_cases hbad : s.BadAccess
    · obtain ⟨r, hr⟩ := step_of_badAccess hf hbad
      simp [hr, hbad]
    · obtain ⟨t, ht⟩ := step_of_enabled hf hbad
      simp [ht, hbad]

end Sys2Proof.Machine
end

section
/-! The CMD write and STATUS (10_state R26 to R28; 60_exceptions R201 to R203), and what alone writes each part of the
state. -/

namespace Sys2Proof.Machine

/-- The three outcomes of a CMD write to an idle block: an illegal encoding, a zero rate, or acceptance (R149, R202). -/
theorem submit_of_idle (w : Word) {s : State} (hf : s.faulted = false) (hb : s.busy = false) :
    ((∃ e, decode w = .error e) ∧ submit w s = .next (s.reject .illegalEncoding)) ∨
    (decode w = .ok (.setSpeed 0) ∧ submit w s = .next (s.reject .rateZero)) ∨
    ∃ i t, decode w = .ok i ∧ i ≠ .setSpeed 0 ∧ submit w s = .next t ∧
      AcceptedWith (s.frameEvents i) t ∧ KeepsTheRest (s.setTiming t.full t.half) t := by
  cases hd : decode w with
  | error e => exact .inl ⟨⟨e, rfl⟩, submit_of_error hd hf hb⟩
  | ok i =>
    by_cases hi : i = .setSpeed 0
    · subst hi
      exact .inr (.inl ⟨rfl, (submit_of_ok hd s).trans (exec_setSpeed_zero hf hb)⟩)
    · obtain ⟨t, ht, haccept, hrest⟩ := exec_accepted hf hb hi
      exact .inr (.inr ⟨i, t, rfl, hi, (submit_of_ok hd s).trans ht, haccept, hrest⟩)

/-- A CMD write while BUSY = 1 is the overrun (R203). -/
theorem submit_of_busy (w : Word) {s : State} (hf : s.faulted = false) (hb : s.busy = true) :
    submit w s = .next s.overrun := onCmdWrite_of_busy hf hb _

/-- Everything a CMD write can do, when it answers a next state: the overrun, a rejection, or an accepted command with
its own frames (R149, R202). -/
theorem submit_outcome {w : Word} {s t : State} (h : submit w s = .next t) :
    s.faulted = false ∧
    ((s.busy = true ∧ t = s.overrun) ∨
     (s.busy = false ∧ ∃ c, c ≠ .none ∧ t = s.reject c) ∨
     (s.busy = false ∧ ∃ i, i ≠ .setSpeed 0 ∧ exec i s = .next t ∧ AcceptedWith (s.frameEvents i) t ∧
       KeepsTheRest (s.setTiming t.full t.half) t)) := by
  obtain ⟨hf, ⟨hb, ht⟩ | ⟨hb, -, ht⟩ | ⟨hb, i, -, hi⟩⟩ := submit_cases h
  · exact ⟨hf, .inl ⟨hb, ht⟩⟩
  · exact ⟨hf, .inr (.inl ⟨hb, .illegalEncoding, nofun, ht⟩)⟩
  · by_cases h0 : i = .setSpeed 0
    · subst h0
      rw [exec_setSpeed_zero hf hb] at hi
      cases hi
      exact ⟨hf, .inr (.inl ⟨hb, .rateZero, nofun, rfl⟩)⟩
    · obtain ⟨u, hu, haccept, hrest⟩ := exec_accepted hf hb h0
      obtain rfl : t = u := Host.Outcome.next.inj (hi.symm.trans hu)
      exact ⟨hf, .inr (.inr ⟨hb, i, h0, hi, haccept, hrest⟩)⟩

/-- What no CMD write changes: the parameters, the latches, HISTORY and the ACK bits (R25, R27, R29, R34). -/
theorem submit_keeps {w : Word} {s t : State} (h : submit w s = .next t) :
    t.params = s.params ∧ t.pins = s.pins ∧ t.history = s.history ∧ t.status.ackValid = s.status.ackValid ∧
    t.status.ackA = s.status.ackA ∧ t.status.ackD = s.status.ackD := by
  obtain ⟨-, ⟨-, rfl⟩ | ⟨-, c, -, rfl⟩ | ⟨-, i, -, -, -, hrest⟩⟩ := submit_outcome h
  · exact ⟨rfl, rfl, rfl, rfl, rfl, rfl⟩
  · exact ⟨rfl, rfl, rfl, rfl, rfl, rfl⟩
  · exact ⟨hrest.params, hrest.pins, hrest.history, hrest.ackValid, hrest.ackA, hrest.ackD⟩

/-- What a CMD write does to the timing pair: nothing, or an accepted SET_SPEED sets it and leaves BUF (R21, R101). -/
theorem submit_timing {w : Word} {s t : State} (h : submit w s = .next t) :
    (t.full = s.full ∧ t.half = s.half) ∨
    ∃ rate, s.busy = false ∧ decode w = .ok (.setSpeed rate) ∧ rate ≠ 0 ∧ t.buf = s.buf ∧
      t.full = fullOf (periodOf rate) ∧ t.half = halfOf (periodOf rate) := by
  obtain ⟨hf, ⟨-, rfl⟩ | ⟨-, -, rfl⟩ | ⟨hb, i, hd, hi⟩⟩ := submit_cases h
  · exact .inl ⟨rfl, rfl⟩
  · exact .inl ⟨rfl, rfl⟩
  · obtain ⟨-, rfl⟩ | ⟨rate, rfl, h0, rfl⟩ | ⟨p, v, rfl⟩ | ⟨v, rfl⟩ | ⟨-, rfl⟩ := exec_cases hf hb hi
    · exact .inl ⟨rfl, rfl⟩
    · exact .inr ⟨rate, hb, hd, h0, rfl, rfl, rfl⟩
    · exact .inl ⟨rfl, rfl⟩
    · exact .inl ⟨rfl, rfl⟩
    · exact .inl ⟨rfl, rfl⟩

/-- A cell that a command changes on an idle block is one of the four that DISPLAY_CLEAR clears, or the one that a
position command names (R23, R55). -/
theorem exec_cell {i : Instr} {s t : State} {p : Fin 4} (hf : s.faulted = false) (hb : s.busy = false)
    (h : exec i s = .next t) (hne : t.cell p ≠ s.cell p) :
    i = .displayClear ∨ ∃ pos x : Byte, pos.toNat % 4 = p ∧
      (i = .writeRaw pos x ∨ i = .writeChar pos x ∨ i = .writeCharWithPoint pos x) := by
  have own : ∀ (pos v : Byte), (s.storeAndSend (cellIndex pos) v).cell p ≠ s.cell p → pos.toNat % 4 = p := by
    intro pos v hne
    by_contra hother
    refine hne (State.storeAndSend_cell_of_ne ?_ v s)
    rintro rfl
    exact hother (cellIndex_val pos).symm
  cases i with
  | setSpeed rate =>
    by_cases h0 : rate = 0
    · subst h0
      rw [exec_setSpeed_zero hf hb] at h
      cases h
      exact absurd rfl hne
    · rw [exec_setSpeed_of_idle hf hb h0] at h
      cases h
      exact absurd rfl hne
  | writeRaw pos pattern =>
    rw [exec_writeRaw_of_idle hf hb] at h
    cases h
    exact .inr ⟨pos, pattern, own pos _ hne, .inl rfl⟩
  | writeChar pos code =>
    rw [exec_writeChar_of_idle hf hb] at h
    cases h
    exact .inr ⟨pos, code, own pos _ hne, .inr (.inl rfl)⟩
  | writeCharWithPoint pos code =>
    rw [exec_writeCharWithPoint_of_idle hf hb] at h
    cases h
    exact .inr ⟨pos, code, own pos _ hne, .inr (.inr rfl)⟩
  | displayOn bright =>
    rw [exec_displayOn_of_idle hf hb] at h
    cases h
    exact absurd rfl hne
  | displayOff =>
    rw [exec_displayOff_of_idle hf hb] at h
    cases h
    exact absurd rfl hne
  | displayClear => exact .inl rfl

/-! ### The outcomes of a CMD write -/

/-- Settles O30, outcome by outcome. -/
theorem rejectionChangesOnlyRejAndCause : Obligations.RejectionChangesOnlyRejAndCause := by
  intro w s rest hf hb hs
  rw [step_of_cmdWrite hs]
  obtain ⟨⟨e, he⟩, ht⟩ | ⟨hd, ht⟩ | ⟨i, t, hd, hi, ht, haccept, -⟩ :=
    submit_of_idle w (s := s.setSchedule rest) hf hb
  · exact ⟨_, ht, by simp [he], fun _ => ⟨rfl, by simp [he], by simp [he]⟩⟩
  · exact ⟨_, ht, by simp [hd], fun _ => ⟨rfl, by simp [hd], by simp [hd]⟩⟩
  · exact ⟨t, ht, by simp [haccept.rej, hd, hi], fun hrej => absurd (haccept.rej.symm.trans hrej) Bool.false_ne_true⟩

/-- Settles O31, the overrun first, and then outcome by outcome. -/
theorem outcomesOfACmdWriteInOrder : Obligations.OutcomesOfACmdWriteInOrder := by
  intro w s rest hf hs
  rw [step_of_cmdWrite hs]
  refine ⟨fun hb => submit_of_busy w (s := s.setSchedule rest) hf hb, fun hb => ?_⟩
  obtain ⟨⟨e, he⟩, ht⟩ | ⟨hd, ht⟩ | ⟨i, t, hd, hi, ht, haccept, hrest⟩ :=
    submit_of_idle w (s := s.setSchedule rest) hf hb
  · exact ⟨_, ht, hf, by simp, by simp [he], by simp [he]⟩
  · exact ⟨_, ht, hf, by simp [hd], by simp, by simp [hd]⟩
  · exact ⟨t, ht, hrest.faulted.trans hf, by simp [hd], by simp [hd, hi], fun _ _ _ => ⟨haccept.rej, haccept.cause⟩⟩

/-- Settles O32. -/
theorem cmdWriteWhileBusyFaultsForGood : Obligations.CmdWriteWhileBusyFaultsForGood := by
  intro w s rest hf hb hs
  refine ⟨_, ?_, rfl, fun u => step_of_faulted⟩
  rw [step_of_cmdWrite hs]
  exact submit_of_busy w (s := s.setSchedule rest) hf hb

/-- Settles O34: a faulted block takes no step but a reset, and reset keeps FAULTED. -/
theorem faultedIsNeverCleared : Obligations.FaultedIsNeverCleared := by
  intro s t hf ht
  obtain ⟨rest, -, rfl⟩ | ⟨⟨hf', -⟩, -⟩ := step_cases ht
  · exact hf
  · rw [hf] at hf'; cases hf'

/-- A Sample is the only event that writes STATUS, and it writes its slot of the ACK bits (R28, R110). -/
theorem State.performNext_status_eq (e : Event) (s : State) :
    (s.performNext e).status = match e with
      | .sample .address => { s.status with ackA := Config.draw s.drawCount, ackValid := false }
      | .sample .data => { s.status with ackD := Config.draw s.drawCount, ackValid := true }
      | .setClk _ | .setDio _ | .dioIn | .dioOut | .wait _ => s.status := by
  cases e with
  | sample k => cases k <;> rfl
  | setClk | setDio | dioIn | dioOut | wait => rfl

/-- Settles O29: the outcomes of a CMD write, and then every step. -/
theorem acceptanceAndRejectionOfStatus : Obligations.AcceptanceAndRejectionOfStatus := by
  refine ⟨fun w s t rest hf hb hs ht => ?write, fun s t ht => ⟨fun hne => ?rejCause, fun hne => ?ackBits⟩⟩
  case write =>
    rw [step_of_cmdWrite hs] at ht
    obtain ⟨-, -, -, hvalid, hA, hD⟩ := submit_keeps ht
    refine ⟨hvalid, hA, hD, ?_, rfl⟩
    obtain ⟨-, ⟨hb', -⟩ | ⟨-, c, hc, rfl⟩ | ⟨-, i, -, -, haccept, -⟩⟩ := submit_outcome ht
    · exact absurd (hb.symm.trans hb') Bool.false_ne_true
    · exact .inr ⟨rfl, hc, rfl⟩
    · exact .inl ⟨haccept.rej, haccept.cause⟩
  case rejCause =>
    obtain ⟨rest, hs, -⟩ | ⟨-, ⟨l, e, -, -, rfl⟩ | ⟨l, rfl⟩ | ⟨l, w, rfl⟩ | ⟨w, rest, hs, hw⟩⟩ := step_cases ht
    · exact .inl ⟨rest, hs⟩
    · simp at hne
    · simp at hne
    · simp at hne
    · obtain ⟨-, ⟨-, rfl⟩ | ⟨hb, -⟩ | ⟨hb, -⟩⟩ := submit_outcome hw
      · simp at hne
      · exact .inr ⟨w, rest, hs, hb⟩
      · exact .inr ⟨w, rest, hs, hb⟩
  case ackBits =>
    obtain ⟨rest, hs, -⟩ | ⟨-, ⟨l, e, hb, he, rfl⟩ | ⟨l, rfl⟩ | ⟨l, w, rfl⟩ | ⟨w, rest, hs, hw⟩⟩ := step_cases ht
    · exact .inl ⟨rest, hs⟩
    · refine .inr ⟨hb, by simp, ?_⟩
      have hstatus := State.performNext_status_eq e (s.setSchedule l)
      match e with
      | .sample .address => exact .inl ⟨he, hstatus⟩
      | .sample .data => exact .inr ⟨he, hstatus⟩
      | .setClk _ | .setDio _ | .dioIn | .dioOut | .wait _ => rw [hstatus] at hne; simp at hne
    · simp at hne
    · simp at hne
    · obtain ⟨-, -, -, hvalid, hA, hD⟩ := submit_keeps hw
      simp [hvalid, hA, hD] at hne

/-! ### What alone writes each part of the state -/

/-- Settles O48. -/
theorem parametersStayAndHistoryGrows : Obligations.ParametersStayAndHistoryGrows := by
  intro s t ht
  obtain ⟨rest, -, rfl⟩ | ⟨-, ⟨l, e, -, -, rfl⟩ | ⟨l, rfl⟩ | ⟨l, w, rfl⟩ | ⟨w, rest, hs, hw⟩⟩ := step_cases ht
  · exact ⟨rfl, .inl rfl⟩
  · exact ⟨by simp, .inr ⟨_, State.performNext_history e _⟩⟩
  · exact ⟨rfl, .inl rfl⟩
  · exact ⟨rfl, .inl rfl⟩
  · obtain ⟨hparams, -, hhistory, -⟩ := submit_keeps hw
    exact ⟨hparams, .inl hhistory⟩

/-- Settles O49. -/
theorem onlySetSpeedAndResetWriteTiming : Obligations.OnlySetSpeedAndResetWriteTiming := by
  intro s t ht hne
  obtain ⟨rest, hs, -⟩ | ⟨-, ⟨l, e, -, -, rfl⟩ | ⟨l, rfl⟩ | ⟨l, w, rfl⟩ | ⟨w, rest, hs, hw⟩⟩ := step_cases ht
  · exact .inl ⟨rest, hs⟩
  · simp at hne
  · simp at hne
  · simp at hne
  · obtain ⟨hfull, hhalf⟩ | ⟨rate, hb, hd, h0, hbuf, -⟩ := submit_timing hw
    · simp [hfull, hhalf] at hne
    · obtain ⟨-, hpins, -⟩ := submit_keeps hw
      exact .inr ⟨w, rest, rate, hs, hb, hd, h0, hbuf, hpins⟩

/-- Settles O50. -/
theorem onlyBufferCommandsAndResetWriteBuf : Obligations.OnlyBufferCommandsAndResetWriteBuf := by
  refine ⟨by decide, fun s t rest hs ht q => ?_, fun s t p ht hne => ?_⟩
  · rw [step_of_reset hs] at ht
    cases ht
    exact (State.cell_congr (s := s.clearCells) rfl q).trans (s.cell_clearCells q)
  · obtain ⟨rest, hs, -⟩ | ⟨-, ⟨l, e, -, -, rfl⟩ | ⟨l, rfl⟩ | ⟨l, w, rfl⟩ | ⟨w, rest, hs, hw⟩⟩ := step_cases ht
    · exact .inl ⟨rest, hs⟩
    · exact absurd (State.performNext_cell e _ p) hne
    · exact absurd rfl hne
    · exact absurd rfl hne
    · obtain ⟨hf, ⟨-, rfl⟩ | ⟨-, -, rfl⟩ | ⟨hb, i, hd, hi⟩⟩ := submit_cases hw
      · exact absurd rfl hne
      · exact absurd rfl hne
      · exact .inr ⟨w, rest, i, hs, hb, hd, exec_cell hf hb hi hne⟩

/-- Settles O51. -/
theorem onlyEventsAndResetWriteThePins : Obligations.OnlyEventsAndResetWriteThePins := by
  intro s t ht hne
  obtain ⟨rest, hs, -⟩ | ⟨-, ⟨l, e, hb, he, rfl⟩ | ⟨l, rfl⟩ | ⟨l, w, rfl⟩ | ⟨w, rest, hs, hw⟩⟩ := step_cases ht
  · exact .inl ⟨rest, hs⟩
  · exact .inr ⟨e, hb, he, by simp, by simp⟩
  · exact absurd rfl hne
  · exact absurd rfl hne
  · obtain ⟨-, hpins, -⟩ := submit_keeps hw
    exact absurd hpins hne

/-- Settles O40: on a busy block a step is an event, the passing of a turn, a read, or an overrun. -/
theorem commandInProgressIsNeverSplit : Obligations.CommandInProgressIsNeverSplit := by
  intro s t hb hreset ht
  obtain ⟨rest, hs, -⟩ | ⟨-, ⟨l, e, -, he, rfl⟩ | ⟨l, rfl⟩ | ⟨l, w, rfl⟩ | ⟨w, rest, -, hw⟩⟩ := step_cases ht
  · exact absurd hs (hreset rest)
  · refine ⟨by simp, by simp, by simp, by simp, .inr ⟨by simp, e, _, he, State.performNext_history e _, by simp, ?_⟩⟩
    exact State.performNext_status_eq e (s.setSchedule l)
  · exact ⟨rfl, rfl, rfl, rfl, .inl ⟨rfl, rfl, rfl, rfl⟩⟩
  · exact ⟨rfl, rfl, rfl, rfl, .inl ⟨rfl, rfl, rfl, rfl⟩⟩
  · obtain ⟨hf, -⟩ := submit_cases hw
    rw [submit_of_busy w hf hb] at hw
    cases hw
    exact ⟨rfl, rfl, rfl, rfl, .inl ⟨rfl, rfl, rfl, rfl⟩⟩

end Sys2Proof.Machine
end

section
/-! The engine's events and the frame (41_protocol_engine R110 to R123): the phases, the samples, the receiver, and a
command that runs to its end. -/

namespace Sys2Proof.Machine

/-- Settles O35, event by event. -/
theorem engineStepPerformsTheNextEvent : Obligations.EngineStepPerformsTheNextEvent := by
  intro s e rest hf he hturn
  rw [step_of_event hf he hturn]
  match e with
  | .setClk _ | .setDio _ | .dioIn | .dioOut | .wait _ | .sample .address | .sample .data => rfl

/-! ### The phases of a frame -/

/-- The events of several bits: six to each (R113, R115). -/
theorem getElem?_flatMap_bitEvents (full half : Word) (vs : List Bool) (j : Nat) :
    (vs.flatMap (bitEvents full half))[j]? = (vs[j / 6]?).bind fun v => (bitEvents full half v)[j % 6]? := by
  induction vs generalizing j with
  | nil => simp
  | cons v vs ih =>
    have hlen : (bitEvents full half v).length = 6 := rfl
    rw [List.flatMap_cons]
    by_cases hj : j < 6
    · rw [List.getElem?_append_left (by omega), Nat.div_eq_of_lt hj, Nat.mod_eq_of_lt hj]
      rfl
    · obtain ⟨j, rfl⟩ : ∃ i, j = i + 6 := ⟨j - 6, by omega⟩
      rw [List.getElem?_append_right (by omega), hlen, Nat.add_sub_cancel, ih, Nat.add_div_right j (by decide),
        Nat.add_mod_right]
      rfl

/-- The m-th bit sent of a byte is its bit 7 - m (R52). -/
theorem getElem?_bitsMsbFirst (x : Byte) {m : Nat} (hm : m < 8) : (bitsMsbFirst x)[m]? = some (x.getLsbD (7 - m)) := by
  rw [bitsMsbFirst_eq]
  interval_cases m <;> rfl

/-- The events of a byte by index: eight bits of six events, and the acknowledgment slot (R115). -/
theorem getElem?_byteEvents (full half : Word) (x : Byte) (k : AckSlot) (j : Nat) :
    (byteEvents full half x k)[j]? =
      if j < 48 then (bitEvents full half (x.getLsbD (7 - j / 6)))[j % 6]? else (ackEvents full half k)[j - 48]? := by
  have hlen : ((bitsMsbFirst x).flatMap (bitEvents full half)).length = 48 := rfl
  rw [byteEvents]
  split
  · next hj =>
    rw [List.getElem?_append_left (by omega), getElem?_flatMap_bitEvents, getElem?_bitsMsbFirst x (by omega)]
    rfl
  · next hj => rw [List.getElem?_append_right (by omega), hlen]

/-- The events of a frame by index: START, two bytes and IDLE (R117). -/
theorem getElem?_frame (full half : Word) (a x : Byte) (j : Nat) :
    (frame full half a x)[j]? =
      if j < 3 then (startEvents full)[j]?
      else if j < 60 then (byteEvents full half a .address)[j - 3]?
      else if j < 117 then (byteEvents full half x .data)[j - 60]?
      else (idleEvents full)[j - 117]? := by
  have hstart : (startEvents full).length = 3 := rfl
  have ha := length_byteEvents full half a .address
  have hx := length_byteEvents full half x .data
  rw [frame, List.append_assoc, List.append_assoc]
  split
  · exact List.getElem?_append_left (by omega)
  · rw [List.getElem?_append_right (by omega), hstart]
    split
    · exact List.getElem?_append_left (by omega)
    · rw [List.getElem?_append_right (by omega), ha, Nat.sub_sub]
      split
      · exact List.getElem?_append_left (by omega)
      · rw [List.getElem?_append_right (by omega), hx, Nat.sub_sub]

/-- Settles O36, range by range. -/
theorem framePhasesByIndex : Obligations.FramePhasesByIndex := by
  intro full half a x j
  rw [getElem?_frame, getElem?_byteEvents, getElem?_byteEvents, phaseOf]
  by_cases h2 : j ≤ 2
  · rw [if_pos (show j < 3 by omega), if_pos h2]
    rfl
  rw [if_neg (show ¬ j < 3 by omega), if_neg h2]
  by_cases h50 : j ≤ 50
  · rw [if_pos (show j < 60 by omega), if_pos (show j - 3 < 48 by omega), if_pos h50]
    rfl
  rw [if_neg h50]
  by_cases h59 : j ≤ 59
  · rw [if_pos (show j < 60 by omega), if_neg (show ¬ j - 3 < 48 by omega), if_pos h59, Nat.sub_sub]
    rfl
  rw [if_neg (show ¬ j < 60 by omega), if_neg h59]
  by_cases h107 : j ≤ 107
  · rw [if_pos (show j < 117 by omega), if_pos (show j - 60 < 48 by omega), if_pos h107]
    rfl
  rw [if_neg h107]
  by_cases h116 : j ≤ 116
  · rw [if_pos (show j < 117 by omega), if_neg (show ¬ j - 60 < 48 by omega), if_pos h116, Nat.sub_sub]
    rfl
  rw [if_neg (show ¬ j < 117 by omega), if_neg h116]
  by_cases h120 : j ≤ 120
  · rw [if_pos h120]
    rfl
  · have hlen : (idleEvents full).length = 4 := rfl
    rw [if_neg h120, List.getElem?_eq_none (by omega)]
    rfl

/-! ### The samples of a frame -/

/-- Only a Sample draws (R114): a list of events without one uses up no draw. -/
theorem State.performAll_drawCount_of_no_sample (l : List Event) (s : State) (h : ∀ k, .sample k ∉ l) :
    (s.performAll l).drawCount = s.drawCount := by
  induction l generalizing s with
  | nil => rfl
  | cons e l ih =>
    have head : (s.performNext e).drawCount = s.drawCount := by
      cases e with
      | sample k => exact absurd List.mem_cons_self (h k)
      | setClk | setDio | dioIn | dioOut | wait => rfl
    exact (ih (s.performNext e) fun k hk => h k (List.mem_cons_of_mem e hk)).trans head

/-- A list with one Sample takes one draw, into that Sample's slot (R110, R114). -/
theorem State.performAll_of_one_sample {l m : List Event} (k : AckSlot) (hl : ∀ k, .sample k ∉ l)
    (hm : ∀ k, .sample k ∉ m) (s : State) :
    (s.performAll (l ++ .sample k :: m)).status = s.status.sampled k (Config.draw s.drawCount) ∧
    (s.performAll (l ++ .sample k :: m)).drawCount = s.drawCount + 1 := by
  have hcons : ∀ t : State, t.performAll (.sample k :: m) = (t.performNext (.sample k)).performAll m := fun _ => rfl
  rw [State.performAll_append, hcons, State.performAll_status_of_no_sample m _ hm,
    State.performAll_drawCount_of_no_sample m _ hm, ← s.performAll_status_of_no_sample l hl,
    ← s.performAll_drawCount_of_no_sample l hl]
  exact ⟨rfl, rfl⟩

/-- A byte is sampled once, in its acknowledgment slot (R114, R115). -/
theorem State.performAll_byteEvents (full half : Word) (x : Byte) (k : AckSlot) (s : State) :
    (s.performAll (byteEvents full half x k)).status = s.status.sampled k (Config.draw s.drawCount) ∧
    (s.performAll (byteEvents full half x k)).drawCount = s.drawCount + 1 := by
  have hsplit : byteEvents full half x k =
      ((bitsMsbFirst x).flatMap (bitEvents full half) ++ [.dioIn, .wait full, .setClk true, .wait full]) ++
        .sample k :: [.setClk false, .dioOut, .setDio false, .wait half] := by
    simp [byteEvents, ackEvents]
  rw [hsplit]
  exact State.performAll_of_one_sample k (by simp [bitEvents]) (by simp) s

/-- Settles O38: START and IDLE take no sample, and each byte takes its own. -/
theorem completedFrameHoldsItsSamples : Obligations.CompletedFrameHoldsItsSamples := by
  intro s full half a x
  obtain ⟨-, hfull, hhalf, hbuf, hpins, -⟩ := s.performAll_fields (frame full half a x)
  have hno : ∀ k, .sample k ∉ idleEvents full := by simp [idleEvents]
  have hno' : ∀ k, .sample k ∉ startEvents full := by simp [startEvents]
  refine ⟨?_, ?_, hpins, hbuf, hfull, hhalf⟩
  · simp only [frame, State.performAll_append, performAll_idleEvents_status, State.performAll_byteEvents,
      performAll_startEvents_status, State.performAll_drawCount_of_no_sample _ _ hno']
    rfl
  · simp only [frame, State.performAll_append, State.performAll_drawCount_of_no_sample _ _ hno,
      State.performAll_byteEvents, State.performAll_drawCount_of_no_sample _ _ hno']

/-! ### The receiver of a frame -/

/-- A start condition on an idle line starts a frame with no bit yet (R112). -/
theorem Receiver.seeAll_start (full : Word) (bits : List Bool) (frames : List (Byte × Byte)) :
    Receiver.seeAll ⟨true, true, true, false, bits, frames⟩ (startEvents full) =
      ⟨false, false, true, true, [], frames⟩ := rfl

/-- The idle condition ends a frame: CLK's rise is its last bit, and DIO's rise counts it (R111). -/
theorem Receiver.seeAll_idle (full : Word) (bits : List Bool) (frames : List (Byte × Byte)) :
    Receiver.seeAll ⟨false, false, true, true, bits, frames⟩ (idleEvents full) =
      ⟨true, true, true, false, [], frames ++ frameOfBits (bits ++ [false])⟩ := rfl

/-- Two bytes with their acknowledgments and the last rise of CLK are one frame (R77, R78). -/
theorem frameOfBits_bytes (a x : Byte) :
    frameOfBits (bitsMsbFirst a ++ [true] ++ bitsMsbFirst x ++ [true] ++ [false]) = [(a, x)] := by
  have ha : byteOfBits (bitsMsbFirst a) = a := byteOfBits_bitsMsbFirst a
  have hx : byteOfBits (bitsMsbFirst x) = x := byteOfBits_bitsMsbFirst x
  unfold frameOfBits
  exact (if_pos rfl).trans (congrArg₂ (fun p q => [(p, q)]) ha hx)

/-- Settles O39, part by part of the frame. -/
theorem waveformCarriesTheFrame : Obligations.WaveformCarriesTheFrame := by
  intro o full half a x hclk hdio hoe hrec
  obtain ⟨clk, dio, oe, receiving, bits, frames⟩ := o
  obtain rfl : clk = true := hclk
  obtain rfl : dio = true := hdio
  obtain rfl : oe = true := hoe
  obtain rfl : receiving = false := hrec
  simp only [frame, Receiver.seeAll_append, Receiver.seeAll_start, Receiver.seeAll_byte, Receiver.seeAll_idle,
    List.nil_append, frameOfBits_bytes]

/-! ### A command that runs to its end -/

/-- With no turn left, or a host that polls, the engine performs everything that remains, one event a step (R121,
R214). -/
theorem run_remaining {l : List Event} {s : State} (hl : s.remaining = l) (hf : s.faulted = false)
    (hs : s.schedule = [] ∨ ∃ rest, s.schedule = .waitIdle :: rest) (k : Nat) :
    Host.Core.run Sys2Proof.core (l.length + k) s = Host.Core.run Sys2Proof.core k (s.performAll l) := by
  induction l generalizing s with
  | nil => rw [List.length_nil, Nat.zero_add]; rfl
  | cons e l ih =>
    have he : s.seqEvents[s.seqPc]? = some e := by
      rw [← List.head?_drop]
      exact congrArg List.head? hl
    have hstep : step s = .next (s.performNext e) :=
      step_of_event (rest := s.schedule) hf he (hs.imp (fun h => ⟨h, h⟩) fun ⟨rest, h⟩ => .inr ⟨⟨rest, h⟩, rfl⟩)
    have hrest : (s.performNext e).remaining = l := by
      rw [State.remaining_cons he] at hl
      exact (List.cons.inj hl).2
    rw [List.length_cons, Nat.add_right_comm, run_succ_of_next hstep]
    exact ih hrest ((State.performNext_faulted e s).trans hf) (by simpa using hs)

/-- Once everything that remains is performed, BUSY = 0 (R30). -/
theorem State.busy_performAll_remaining (s : State) : (s.performAll s.remaining).busy = false := by
  obtain ⟨-, -, -, -, -, hevents, hpc, -⟩ := s.performAll_fields s.remaining
  rw [State.busy, hevents, hpc, State.remaining, List.length_drop]
  exact decide_eq_false (by omega)

/-- Settles O41. -/
theorem commandRunsToItsEnd : Obligations.CommandRunsToItsEnd := by
  intro s hf hs
  obtain ⟨-, hfull, hhalf, hbuf, -, -, -, -, -, hhistory⟩ := s.performAll_fields s.remaining
  exact ⟨_, run_remaining rfl hf (.inl hs) 0, rfl, s.busy_performAll_remaining, hbuf, hfull, hhalf, hhistory⟩

/-- Settles O42: the poll passes at the step after the last event. -/
theorem pollingHostGoesOnWhenIdle : Obligations.PollingHostGoesOnWhenIdle := by
  intro s rest hf hs
  obtain ⟨-, -, -, -, -, -, -, hfaulted, hschedule, -⟩ := s.performAll_fields s.remaining
  have hidle := s.busy_performAll_remaining
  refine ⟨_, ?_, rfl, hidle⟩
  rw [run_remaining rfl hf (.inr ⟨rest, hs⟩) 1,
    run_succ_of_next (step_of_waitIdle_of_idle (hfaulted.trans hf) (hschedule.trans hs) hidle)]
  rfl

end Sys2Proof.Machine
end

section
/-! The register invariant and the line invariant (10_state R21, R26, R30; 41_protocol_engine R119, R120): kept by every
step, and given by every reset. -/

namespace Sys2Proof.Machine

/-- What every step keeps holds after any number of steps. -/
theorem run_keeps {P : State → Prop} (hstep : ∀ s t, P s → step s = .next t → P t) (k : Nat) {s t : State} (hs : P s)
    (hrun : Host.Core.run Sys2Proof.core k s = .next t) : P t := by
  induction k generalizing s with
  | zero => cases hrun; exact hs
  | succ k ih =>
    have hunfold := Host.Core.run.eq_2 Sys2Proof.core s k
    rw [hrun] at hunfold
    cases hst : step s with
    | next u => exact ih (hstep s u hs hst) ((run_succ_of_next hst k).symm.trans hrun)
    | fault r =>
      rw [show Sys2Proof.core.step s = .fault r from hst] at hunfold
      cases hunfold
    | refused r =>
      rw [show Sys2Proof.core.step s = .refused r from hst] at hunfold
      cases hunfold

/-- The reset state is what a reset leaves of it, whatever turns come. -/
theorem reset_setSchedule_eq (l : List Turn) : State.reset.setSchedule l = (State.reset.setSchedule l).applyReset := rfl

/-! ### The register invariant -/

theorem registerInv_applyReset {s : State} (h : s.params.ok = true) : s.applyReset.RegisterInv :=
  ⟨h, ((Params.ok_iff _).mp h).2.2.2.2, rfl, Nat.le_refl 0⟩

/-- A CMD write keeps the register invariant, outcome by outcome (R21, R26, R30). -/
theorem submit_keeps_registerInv {w : Word} {s t : State} (h : s.RegisterInv) (ht : submit w s = .next t) :
    t.RegisterInv := by
  have hparams : t.params.ok = true := by
    obtain ⟨hp, -⟩ := submit_keeps ht
    rw [hp]
    exact h.params
  have htiming : t.TimingInv := by
    unfold State.TimingInv
    obtain ⟨hfull, hhalf⟩ | ⟨rate, -, -, h0, -, hfull, hhalf⟩ := submit_timing ht
    · rw [hfull, hhalf]
      exact h.timing
    · rw [hfull, hhalf]
      exact reachableTiming_of_rate h0
  obtain ⟨-, ⟨-, rfl⟩ | ⟨-, c, hc, rfl⟩ | ⟨-, i, -, -, haccept, -⟩⟩ := submit_outcome ht
  · exact ⟨hparams, htiming, h.status, h.sequencer⟩
  · exact ⟨hparams, htiming, (decide_eq_true hc).symm, h.sequencer⟩
  · refine ⟨hparams, htiming, ?_, ?_⟩
    · rw [State.StatusInv, haccept.rej, haccept.cause]
      rfl
    · rw [State.SequencerInv, haccept.pc]
      exact Nat.zero_le _

/-- Settles O52. -/
theorem stepKeepsTheRegisterInvariant : Obligations.StepKeepsTheRegisterInvariant := by
  intro s t h ht
  obtain ⟨rest, -, rfl⟩ | ⟨-, ⟨l, e, hb, -, rfl⟩ | ⟨l, rfl⟩ | ⟨l, w, rfl⟩ | ⟨w, rest, -, hw⟩⟩ := step_cases ht
  · exact registerInv_applyReset h.params
  · have hlt : s.seqPc < s.seqEvents.length := of_decide_eq_true hb
    refine ⟨?_, ?_, ?_, ?_⟩
    · simpa using h.params
    · simpa [State.TimingInv] using h.timing
    · simpa [State.StatusInv] using h.status
    · simpa [State.SequencerInv] using hlt
  · exact ⟨h.params, h.timing, h.status, h.sequencer⟩
  · exact ⟨h.params, h.timing, h.status, h.sequencer⟩
  · exact submit_keeps_registerInv (s := s.setSchedule rest) ⟨h.params, h.timing, h.status, h.sequencer⟩ hw

/-! ### The line invariant -/

theorem lineInv_applyReset (s : State) : s.applyReset.LineInv := ⟨rfl, rfl⟩

/-- The line invariant depends on the latches and on what remains alone. -/
theorem State.LineInv.congr {s t : State} (h : s.LineInv) (hp : t.pins = s.pins) (hr : t.remaining = s.remaining) :
    t.LineInv := by
  unfold State.LineInv
  rw [hp, hr]
  exact h

/-- With BUSY = 0 the lines are idle (R119). -/
theorem State.LineInv.idle {s : State} (h : s.LineInv) (hb : s.busy = false) : s.pins = Pins.idle := by
  have hlines := h.1
  rw [State.remaining_of_idle hb] at hlines
  exact hlines

/-- An event keeps the line invariant of what remains after it. -/
theorem State.LineInv.performNext {s : State} {e : Event} (h : s.LineInv) (he : s.seqEvents[s.seqPc]? = some e) :
    (s.performNext e).LineInv := by
  obtain ⟨hidle, hdrive⟩ := h
  rw [State.remaining_cons he] at hidle hdrive
  unfold State.LineInv
  rw [State.performNext_pins]
  refine ⟨hidle, ?_⟩
  cases e with
  | setDio | sample => exact (Bool.and_eq_true_iff.mp hdrive).2
  | setClk | dioIn | dioOut | wait => exact hdrive

/-- Frames one after the other start and end at idle lines, and drive the data line in turn (R119, R120). -/
theorem frames_lineInv (full half : Word) (fs : List (Byte × Byte)) :
    Pins.idle.afterAll (fs.flatMap fun f => frame full half f.1 f.2) = Pins.idle ∧
    drivesInTurn Pins.idle (fs.flatMap fun f => frame full half f.1 f.2) = true := by
  induction fs with
  | nil => exact ⟨rfl, rfl⟩
  | cons f fs ih =>
    obtain ⟨hidle, hdrive⟩ := ih
    rw [List.flatMap_cons, Pins.afterAll_append, drivesInTurn_append, Pins.afterAll_frame, drivesInTurn_frame]
    exact ⟨hidle, hdrive⟩

/-- What remains of a command that was just accepted is its whole event list. -/
theorem AcceptedWith.remaining {l : List Event} {t : State} (h : AcceptedWith l t) : t.remaining = l := by
  rw [State.remaining, h.events, h.pc, List.drop_zero]

/-- A CMD write keeps the line invariant: a command is accepted on idle lines, and sends frames (R119, R120). -/
theorem submit_keeps_lineInv {w : Word} {s t : State} (h : s.LineInv) (ht : submit w s = .next t) : t.LineInv := by
  obtain ⟨-, hpins, -⟩ := submit_keeps ht
  obtain ⟨-, ⟨-, rfl⟩ | ⟨-, c, -, rfl⟩ | ⟨hb, i, -, -, haccept, -⟩⟩ := submit_outcome ht
  · exact h.congr rfl rfl
  · exact h.congr rfl rfl
  · unfold State.LineInv
    rw [hpins, h.idle hb, haccept.remaining]
    exact frames_lineInv s.full s.half (s.framesOf i)

/-- Settles O54. -/
theorem stepKeepsTheLineInvariant : Obligations.StepKeepsTheLineInvariant := by
  intro s t h ht
  obtain ⟨rest, -, rfl⟩ | ⟨-, ⟨l, e, -, he, rfl⟩ | ⟨l, rfl⟩ | ⟨l, w, rfl⟩ | ⟨w, rest, -, hw⟩⟩ := step_cases ht
  · exact lineInv_applyReset _
  · exact State.LineInv.performNext (s := s.setSchedule l) (h.congr rfl rfl) he
  · exact h.congr rfl rfl
  · exact h.congr rfl rfl
  · exact submit_keeps_lineInv (s := s.setSchedule rest) (h.congr rfl rfl) hw

/-- Settles O55. -/
theorem idleLinesWheneverNotBusy : Obligations.IdleLinesWheneverNotBusy := by
  refine ⟨fun k s t h hrun hb => ?_, fun l => ?_, fun s t rest hs ht => ?_, fun p full half a x k => ⟨rfl, rfl⟩⟩
  · have hidle := (run_keeps stepKeepsTheLineInvariant k h hrun).idle hb
    rw [hidle]
    exact ⟨rfl, rfl, rfl⟩
  · rw [reset_setSchedule_eq]
    exact lineInv_applyReset _
  · rw [step_of_reset hs] at ht
    cases ht
    exact lineInv_applyReset _

/-- An acknowledgment slot releases the data line in its first event alone (R114). -/
theorem eq_zero_of_dioIn_in_ackEvents {full half : Word} {k : AckSlot} {j : Nat}
    (h : (ackEvents full half k)[j]? = some .dioIn) : j = 0 := by
  match j with
  | 0 => rfl
  | 1 | 2 | 3 | 4 | 5 | 6 | 7 | 8 | _ + 9 => simp [ackEvents] at h

/-- A byte releases the data line after its eight bits (R115). -/
theorem eq_of_dioIn_in_byteEvents {full half : Word} {x : Byte} {k : AckSlot} {j : Nat}
    (h : (byteEvents full half x k)[j]? = some .dioIn) : j = 48 := by
  rw [getElem?_byteEvents] at h
  split at h
  · have hmem := List.mem_of_getElem? h
    simp [bitEvents] at hmem
  · have := eq_zero_of_dioIn_in_ackEvents h
    omega

/-- A frame releases the data line twice, at the start of its two acknowledgment slots (R117, R118). -/
theorem eq_of_dioIn_in_frame {full half : Word} {a x : Byte} {j : Nat}
    (h : (frame full half a x)[j]? = some .dioIn) : j = 51 ∨ j = 108 := by
  rw [getElem?_frame] at h
  split at h
  · have hmem := List.mem_of_getElem? h
    simp [startEvents] at hmem
  split at h
  · have := eq_of_dioIn_in_byteEvents h
    omega
  split at h
  · have := eq_of_dioIn_in_byteEvents h
    omega
  · have hmem := List.mem_of_getElem? h
    simp [idleEvents] at hmem

/-- Settles O56. -/
theorem dataLineIsDrivenInTurn : Obligations.DataLineIsDrivenInTurn := by
  refine ⟨fun s e h he => ?_, fun full half a x j hj => ?_⟩
  · have hdrive := h.2
    rw [State.remaining_cons he] at hdrive
    constructor
    · rintro ⟨v, rfl⟩
      exact (Bool.and_eq_true_iff.mp hdrive).1
    · rintro ⟨k, rfl⟩
      simpa using (Bool.and_eq_true_iff.mp hdrive).1
  · obtain rfl | rfl := eq_of_dioIn_in_frame hj
    · exact ⟨.address, rfl⟩
    · exact ⟨.data, rfl⟩

end Sys2Proof.Machine
end

section
/-! The buffer invariant (10_state R24): a receiver that watches the wire sees, for every cell it has heard of, the byte
that BUF holds. -/

namespace Sys2Proof.Machine

/-! ### What a receiver makes of frames -/

/-- The levels and the state of a receiver of an idle line. -/
def Receiver.Idle (o : Receiver) : Prop := o.clk = true ∧ o.dio = true ∧ o.oe = true ∧ o.receiving = false

/-- A receiver of an idle line gets exactly the frames that are sent, in order, and the line is idle again. -/
theorem Receiver.seeAll_frames (full half : Word) (fs : List (Byte × Byte)) {o : Receiver} (h : o.Idle) :
    (o.seeAll (fs.flatMap fun f => frame full half f.1 f.2)).Idle ∧
    (o.seeAll (fs.flatMap fun f => frame full half f.1 f.2)).frames = o.frames ++ fs := by
  induction fs generalizing o with
  | nil => exact ⟨h, (List.append_nil _).symm⟩
  | cons f fs ih =>
    obtain ⟨hclk, hdio, hoe, hrec⟩ := h
    have hone := waveformCarriesTheFrame o full half f.1 f.2 hclk hdio hoe hrec
    rw [List.flatMap_cons, Receiver.seeAll_append, hone]
    obtain ⟨hidle, hframes⟩ := ih (o := { o with bits := [], frames := o.frames ++ [f] }) ⟨hclk, hdio, hoe, hrec⟩
    exact ⟨hidle, by rw [hframes, List.append_assoc]; rfl⟩

/-- The last frame to an address is the last of the new ones to it, or, if there is none, the last of the old. -/
theorem Receiver.lastTo_of_frames_append {o o' : Receiver} {fs : List (Byte × Byte)} {a v : Byte}
    (hframes : o'.frames = o.frames ++ fs) (h : o'.lastTo a = some v) :
    (a, v) ∈ fs ∨ ((∀ f ∈ fs, f.1 ≠ a) ∧ o.lastTo a = some v) := by
  rw [Receiver.lastTo, hframes, List.filter_append, List.getLast?_append] at h
  cases hlast : (fs.filter fun f => f.1 == a).getLast? with
  | none =>
    rw [hlast, Option.none_or] at h
    refine .inr ⟨fun f hf ha => ?_, h⟩
    have hmem : f ∈ fs.filter fun f => f.1 == a := List.mem_filter.mpr ⟨hf, beq_iff_eq.mpr ha⟩
    rw [List.getLast?_eq_none_iff.mp hlast] at hmem
    cases hmem
  | some f =>
    rw [hlast, Option.some_or, Option.map_some] at h
    obtain ⟨hf, ha⟩ := List.mem_filter.mp (List.mem_of_getLast? hlast)
    have hfv : f = (a, v) := Prod.ext (beq_iff_eq.mp ha) (Option.some.inj h)
    exact .inl (hfv ▸ hf)

theorem Receiver.watch_of_reset {s : State} {rest : List Turn} (hs : s.schedule = .reset :: rest) (o : Receiver)
    (t : State) : o.watch s t = Receiver.fresh := by
  unfold Receiver.watch
  rw [hs]

theorem Receiver.watch_of_not_reset {s : State} (hs : ∀ rest, s.schedule ≠ .reset :: rest) (o : Receiver) (t : State) :
    o.watch s t = o.seeAll ((t.history.drop s.history.length).map Entry.event) := by
  unfold Receiver.watch
  split
  · next rest h => exact absurd h (hs rest)
  all_goals rfl

/-- A step that records no event shows the receiver nothing. -/
theorem Receiver.watch_of_history_eq {s t : State} (hs : ∀ rest, s.schedule ≠ .reset :: rest)
    (h : t.history = s.history) (o : Receiver) : o.watch s t = o := by
  rw [Receiver.watch_of_not_reset hs, h, List.drop_length]
  rfl

/-- A step that records an event shows it to the receiver. -/
theorem Receiver.watch_of_history_append {s t : State} {e : Entry} (hs : ∀ rest, s.schedule ≠ .reset :: rest)
    (h : t.history = s.history ++ [e]) (o : Receiver) : o.watch s t = o.see e.event := by
  rw [Receiver.watch_of_not_reset hs, h, List.drop_left]
  rfl

/-! ### The cells and the frames of a command -/

/-- An accepted command leaves in every cell the byte of each frame it sends to the cell's address, and leaves the cells
it sends no frame to (R150 to R156). The addresses must differ (R84). -/
theorem exec_cells_match_frames {i : Instr} {s t : State} (hok : s.params.ok = true) (hf : s.faulted = false)
    (hb : s.busy = false) (hi : i ≠ .setSpeed 0) (h : exec i s = .next t) (p : Fin 4) :
    (∀ v, (s.digitAddr p, v) ∈ s.framesOf i → t.cell p = v) ∧
    ((∀ f ∈ s.framesOf i, f.1 ≠ s.digitAddr p) → t.cell p = s.cell p) := by
  obtain ⟨-, -, hdigits, hsys, -⟩ := (Params.ok_iff _).mp hok
  have stored : ∀ (pos w : Byte),
      (∀ v, (s.digitAddr p, v) ∈ [(s.params.digitAddr[positionOf pos], w)] →
        (s.storeAndSend (positionOf pos) w).cell p = v) ∧
      ((∀ f ∈ [(s.params.digitAddr[positionOf pos], w)], f.1 ≠ s.digitAddr p) →
        (s.storeAndSend (positionOf pos) w).cell p = s.cell p) := by
    intro pos w
    constructor
    · intro v hmem
      obtain ⟨ha, rfl⟩ := Prod.mk.inj (List.mem_singleton.mp hmem)
      rw [hdigits p (positionOf pos) ha, State.storeAndSend_cell_self]
    · intro hnone
      refine State.storeAndSend_cell_of_ne ?_ w s
      rintro rfl
      exact hnone _ (List.mem_singleton_self _) rfl
  have control : ∀ (w : Byte) (u : State), u.buf = s.buf →
      (∀ v, (s.digitAddr p, v) ∈ [(s.params.sysCmdAddr, w)] → u.cell p = v) ∧
      ((∀ f ∈ [(s.params.sysCmdAddr, w)], f.1 ≠ s.digitAddr p) → u.cell p = s.cell p) := by
    intro w u hbuf
    refine ⟨fun v hmem => ?_, fun _ => State.cell_congr hbuf p⟩
    exact absurd (Prod.mk.inj (List.mem_singleton.mp hmem)).1 (hsys p)
  cases i with
  | setSpeed rate =>
    rw [exec_setSpeed_of_idle hf hb (fun h0 => hi (by rw [h0]))] at h
    cases h
    exact ⟨fun v hmem => absurd hmem List.not_mem_nil, fun _ => rfl⟩
  | writeRaw pos pattern =>
    rw [exec_writeRaw_of_idle hf hb, cellIndex_eq_positionOf] at h
    cases h
    exact stored pos pattern
  | writeChar pos code =>
    rw [exec_writeChar_of_idle hf hb, cellIndex_eq_positionOf] at h
    cases h
    exact stored pos _
  | writeCharWithPoint pos code =>
    rw [exec_writeCharWithPoint_of_idle hf hb, cellIndex_eq_positionOf] at h
    cases h
    exact stored pos _
  | displayOn bright =>
    rw [exec_displayOn_of_idle hf hb] at h
    cases h
    exact control _ _ rfl
  | displayOff =>
    rw [exec_displayOff_of_idle hf hb] at h
    cases h
    exact control _ _ rfl
  | displayClear =>
    rw [exec_displayClear_of_idle hf hb] at h
    cases h
    have hcell : (s.clearCells.accept s.clearFrames).cell p = 0 := s.cell_clearCells p
    have hsent : (s.digitAddr p, 0) ∈ s.framesOf .displayClear := by
      fin_cases p <;> simp [State.framesOf, State.digitAddr]
    have hzero : ∀ f ∈ s.framesOf .displayClear, f.2 = 0 := by simp [State.framesOf]
    exact ⟨fun v hmem => hcell.trans (hzero _ hmem).symm, fun hnone => absurd rfl (hnone _ hsent)⟩

/-! ### The invariant -/

/-- The buffer invariant depends on what the receiver will have seen, the addresses and the cells alone. -/
theorem BufferMatchesWire.congr {o o' : Receiver} {s t : State} (h : BufferMatchesWire o s)
    (hseen : o'.seeAll t.remaining = o.seeAll s.remaining) (hparams : t.params = s.params) (hbuf : t.buf = s.buf) :
    BufferMatchesWire o' t := by
  simp only [BufferMatchesWire, hseen, State.digitAddr, hparams, State.cell, hbuf] at h ⊢
  exact h

/-- With BUSY = 0, the receiver has seen everything. -/
theorem BufferMatchesWire.idle {o : Receiver} {s : State} (h : BufferMatchesWire o s) (hb : s.busy = false) :
    o.Idle ∧ ∀ (p : Fin 4) (v : Byte), o.lastTo (s.digitAddr p) = some v → s.cell p = v := by
  simp only [BufferMatchesWire, State.remaining_of_idle hb] at h
  obtain ⟨hclk, hdio, hoe, hrec, hcells⟩ := h
  exact ⟨⟨hclk, hdio, hoe, hrec⟩, hcells⟩

/-- A receiver that has seen no frame matches every idle state. -/
theorem bufferMatchesWire_fresh {s : State} (hb : s.busy = false) : BufferMatchesWire Receiver.fresh s := by
  simp only [BufferMatchesWire, State.remaining_of_idle hb]
  exact ⟨rfl, rfl, rfl, rfl, fun p v h => by cases h⟩

/-- An accepted command keeps the buffer invariant: what it stores is what it sends (R24, R149). -/
theorem bufferMatchesWire_accepted {o : Receiver} {i : Instr} {s t : State} (hok : s.params.ok = true)
    (h : BufferMatchesWire o s) (hf : s.faulted = false) (hb : s.busy = false) (hi : i ≠ .setSpeed 0)
    (ht : exec i s = .next t) (haccept : AcceptedWith (s.frameEvents i) t) (hparams : t.params = s.params) :
    BufferMatchesWire o t := by
  obtain ⟨hidle, hold⟩ := h.idle hb
  obtain ⟨⟨hclk, hdio, hoe, hrec⟩, hframes⟩ := Receiver.seeAll_frames s.full s.half (s.framesOf i) hidle
  unfold BufferMatchesWire
  rw [haccept.remaining]
  refine ⟨hclk, hdio, hoe, hrec, fun p v hv => ?_⟩
  have haddr : t.digitAddr p = s.digitAddr p := by rw [State.digitAddr, hparams]; rfl
  rw [haddr] at hv
  obtain ⟨hsent, hkept⟩ := exec_cells_match_frames hok hf hb hi ht p
  obtain hnew | ⟨hnone, hbefore⟩ := Receiver.lastTo_of_frames_append hframes hv
  · exact hsent v hnew
  · exact (hkept hnone).trans (hold p v hbefore)

/-- A CMD write keeps the buffer invariant (R24). -/
theorem submit_keeps_bufferMatchesWire {o : Receiver} {w : Word} {s t : State} (hok : s.params.ok = true)
    (h : BufferMatchesWire o s) (ht : submit w s = .next t) : BufferMatchesWire o t := by
  obtain ⟨hf, ⟨-, rfl⟩ | ⟨-, c, -, rfl⟩ | ⟨hb, i, hi, hexec, haccept, hrest⟩⟩ := submit_outcome ht
  · exact h.congr rfl rfl rfl
  · exact h.congr rfl rfl rfl
  · exact bufferMatchesWire_accepted hok h hf hb hi hexec haccept hrest.params

/-- Settles O57. -/
theorem stepKeepsTheBufferInvariant : Obligations.StepKeepsTheBufferInvariant := by
  intro o s t hok h ht
  obtain ⟨rest, hs, rfl⟩ | ⟨⟨-, hs⟩, ⟨l, e, -, he, rfl⟩ | ⟨l, rfl⟩ | ⟨l, w, rfl⟩ | ⟨w, rest, -, hw⟩⟩ := step_cases ht
  · rw [Receiver.watch_of_reset hs]
    exact bufferMatchesWire_fresh rfl
  · rw [Receiver.watch_of_history_append hs (State.performNext_history e (s.setSchedule l))]
    have hremaining : s.remaining = e :: ((s.setSchedule l).performNext e).remaining :=
      State.remaining_cons (s := s.setSchedule l) he
    exact h.congr (by rw [hremaining]; rfl) (by simp) (by simp)
  · rw [Receiver.watch_of_history_eq hs (State.setSchedule_history l s)]
    exact h.congr rfl rfl rfl
  · rw [Receiver.watch_of_history_eq hs (State.setReply_history w (s.setSchedule l))]
    exact h.congr rfl rfl rfl
  · obtain ⟨-, -, hhistory, -⟩ := submit_keeps hw
    rw [Receiver.watch_of_history_eq hs hhistory]
    exact submit_keeps_bufferMatchesWire (s := s.setSchedule rest) hok (h.congr rfl rfl rfl) hw

/-- The buffer invariant holds after any number of steps, the receiver watching. -/
theorem watchedRun_keeps (k : Nat) {o o' : Receiver} {s t : State} (hok : s.params.ok = true)
    (h : BufferMatchesWire o s) (hrun : watchedRun k o s = some (o', t)) : BufferMatchesWire o' t := by
  induction k generalizing o s with
  | zero => cases hrun; exact h
  | succ k ih =>
    unfold watchedRun at hrun
    cases hst : step s with
    | next u =>
      rw [hst] at hrun
      obtain ⟨hparams, -⟩ := parametersStayAndHistoryGrows s u hst
      exact ih (by rw [hparams]; exact hok) (stepKeepsTheBufferInvariant o s u hok h hst) hrun
    | fault r => rw [hst] at hrun; cases hrun
    | refused r => rw [hst] at hrun; cases hrun

/-- Settles O58. -/
theorem bufferHoldsTheLastByteSent : Obligations.BufferHoldsTheLastByteSent := by
  intro k s t o hok hb hrun hb' p v hv
  exact ((watchedRun_keeps k hok (bufferMatchesWire_fresh hb) hrun).idle hb').2 p v hv

/-- Settles O53: the reset state is one that a reset leaves. -/
theorem resetHasTheInvariants : Obligations.ResetHasTheInvariants := by
  intro l
  rw [reset_setSchedule_eq]
  exact ⟨registerInv_applyReset params_ok, lineInv_applyReset _, bufferMatchesWire_fresh rfl⟩

end Sys2Proof.Machine
end

section
/-! The acknowledgment draws (41_protocol_engine R122, R123): every step commutes with leaving out what the draws
reach. -/

namespace Sys2Proof.Machine

@[simp] theorem State.withoutDraws_withoutDraws (s : State) : s.withoutDraws.withoutDraws = s.withoutDraws := by
  simp [State.withoutDraws]

/-- The gate of a step reads FAULTED, which no draw reaches. -/
theorem resultWithoutDraws_whenEnabled (s : State) (r : Result) :
    resultWithoutDraws (whenEnabled s r) = whenEnabled s.withoutDraws (resultWithoutDraws r) := by
  have hfaulted : s.withoutDraws.faulted = s.faulted := rfl
  rw [whenEnabled, whenEnabled, hfaulted]
  cases s.faulted <;> rfl

/-- The gate of a CMD write reads BUSY, which no draw reaches. -/
theorem resultWithoutDraws_onCmdWrite (s : State) (r : Result) :
    resultWithoutDraws (onCmdWrite s r) = onCmdWrite s.withoutDraws (resultWithoutDraws r) := by
  have hbusy : s.withoutDraws.busy = s.busy := rfl
  rw [onCmdWrite, onCmdWrite, resultWithoutDraws_whenEnabled, hbusy]
  cases s.busy <;> rfl

/-- No command reads a draw (R122). -/
theorem resultWithoutDraws_exec (i : Instr) (s : State) : resultWithoutDraws (exec i s) = exec i s.withoutDraws := by
  cases i with
  | setSpeed rate =>
    refine (resultWithoutDraws_onCmdWrite s _).trans (congrArg (onCmdWrite s.withoutDraws) ?_)
    split <;> rfl
  | writeRaw | writeChar | writeCharWithPoint | displayOn | displayOff | displayClear =>
    exact resultWithoutDraws_onCmdWrite s _

theorem resultWithoutDraws_submit (w : Word) (s : State) :
    resultWithoutDraws (submit w s) = submit w s.withoutDraws := by
  cases hd : decode w with
  | ok i => rw [submit_of_ok hd, submit_of_ok hd, resultWithoutDraws_exec]
  | error e =>
    unfold submit
    rw [resultWithoutDraws_onCmdWrite, hd]
    rfl

/-- An event's effect is its own, but for the bit that a Sample draws (R110, R122). -/
theorem withoutDraws_performNext (e : Event) (s : State) :
    (s.performNext e).withoutDraws = (s.withoutDraws.performNext e).withoutDraws := by
  match e with
  | .setClk _ | .setDio _ | .dioIn | .dioOut | .wait _ | .sample .address | .sample .data =>
    simp [State.withoutDraws, State.performNext, State.perform, State.record, State.advance, State.setPins,
      State.setStatus, State.countDraw, Status.sampled]

theorem resultWithoutDraws_engineTurn (s : State) :
    resultWithoutDraws (engineTurn s) = resultWithoutDraws (engineTurn s.withoutDraws) := by
  have hevent : s.withoutDraws.seqEvents[s.withoutDraws.seqPc]? = s.seqEvents[s.seqPc]? := rfl
  unfold engineTurn
  rw [hevent]
  cases s.seqEvents[s.seqPc]? with
  | none => exact congrArg Host.Outcome.next s.withoutDraws_withoutDraws.symm
  | some e => exact congrArg Host.Outcome.next (withoutDraws_performNext e s)

theorem resultWithoutDraws_hostWrite (offset size : Nat) (w : Word) (s : State) :
    resultWithoutDraws (hostWrite offset size w s) = hostWrite offset size w s.withoutDraws := by
  unfold hostWrite
  split
  · cases HostReg.at? offset with
    | none => rfl
    | some r =>
      cases r with
      | cmd => exact resultWithoutDraws_submit w s
      | status | full | half | bufWord | pins => rfl
  · rfl

/-- A read returns a word that a draw may reach, but writes it to the reply alone (R58). -/
theorem resultWithoutDraws_hostRead (offset size : Nat) (s : State) :
    resultWithoutDraws (hostRead offset size s) = resultWithoutDraws (hostRead offset size s.withoutDraws) := by
  have hreply : ∀ v w, resultWithoutDraws (.next (s.setReply v)) =
      resultWithoutDraws (.next (s.withoutDraws.setReply w)) := fun v w =>
    congrArg Host.Outcome.next s.withoutDraws_withoutDraws.symm
  unfold hostRead
  split
  · cases HostReg.at? offset with
    | none => rfl
    | some r =>
      cases r with
      | cmd => rfl
      | status | full | half | bufWord | pins => exact hreply _ _
  · rfl

/-- Where a step's result commutes with leaving out the draws, it is the same from the state without them. -/
theorem resultWithoutDraws_of_commutes {f : State → Result} (h : ∀ s, resultWithoutDraws (f s) = f s.withoutDraws)
    (s : State) : resultWithoutDraws (f s) = resultWithoutDraws (f s.withoutDraws) := by
  rw [h, h, State.withoutDraws_withoutDraws]

/-- The gate keeps results that agree without the draws so. -/
theorem resultWithoutDraws_whenEnabled_congr {s : State} {r r' : Result}
    (h : resultWithoutDraws r = resultWithoutDraws r') :
    resultWithoutDraws (whenEnabled s r) = resultWithoutDraws (whenEnabled s.withoutDraws r') := by
  rw [resultWithoutDraws_whenEnabled, resultWithoutDraws_whenEnabled, h, State.withoutDraws_withoutDraws]

theorem resultWithoutDraws_takeTurn (t : Turn) (s : State) :
    resultWithoutDraws (takeTurn t s) = resultWithoutDraws (takeTurn t s.withoutDraws) := by
  cases t with
  | reset => exact resultWithoutDraws_of_commutes (f := fun s => .next s.applyReset) (fun _ => rfl) s
  | write offset size w =>
    exact resultWithoutDraws_whenEnabled_congr
      (resultWithoutDraws_of_commutes (resultWithoutDraws_hostWrite offset size w) s)
  | read offset size => exact resultWithoutDraws_whenEnabled_congr (resultWithoutDraws_hostRead offset size s)
  | engine => exact resultWithoutDraws_whenEnabled_congr (resultWithoutDraws_engineTurn s)
  | waitIdle =>
    refine resultWithoutDraws_whenEnabled_congr ?_
    have hbusy : s.withoutDraws.busy = s.busy := rfl
    rw [hbusy]
    cases s.busy with
    | true => exact resultWithoutDraws_engineTurn (s.setSchedule (.waitIdle :: s.schedule))
    | false => exact congrArg Host.Outcome.next s.withoutDraws_withoutDraws.symm

/-- A step without what the draws reach is the step of the state without it. -/
theorem resultWithoutDraws_step (s : State) :
    resultWithoutDraws (step s) = resultWithoutDraws (step s.withoutDraws) := by
  have hschedule : s.withoutDraws.schedule = s.schedule := rfl
  unfold step
  rw [hschedule]
  cases s.schedule with
  | nil => exact resultWithoutDraws_whenEnabled_congr (resultWithoutDraws_engineTurn s)
  | cons t rest => exact resultWithoutDraws_takeTurn t (s.setSchedule rest)

/-- Settles O59. -/
theorem drawsNeverSteerTheBlock : Obligations.DrawsNeverSteerTheBlock := by
  intro s s' h
  rw [resultWithoutDraws_step s, resultWithoutDraws_step s', h]

end Sys2Proof.Machine
end

section
/-! A host that keeps its duty (60_exceptions R214, 70_reset_and_hazards R234) is never stopped. -/

namespace Sys2Proof.Machine

/-- Going on from a command in progress is the harder duty: it may be done with BUSY = 0 as well. -/
theorem serialised_of_imp {b b' : Bool} {l : List Turn} (h : serialised b l = true) (hb : b' = true → b = true) :
    serialised b' l = true := by
  cases b with
  | true => exact serialised_of_pending h b'
  | false =>
    cases b' with
    | true => cases hb rfl
    | false => exact h

/-- The duty at a write: CMD only with no command in progress, or a read-only register (R214, R234). -/
theorem serialised_write {b : Bool} {offset size : Nat} {w : Word} {rest : List Turn}
    (h : serialised b (.write offset size w :: rest) = true) :
    size = 4 ∧ ((offset = 0 ∧ b = false ∧ serialised true rest = true) ∨
      (offset ∈ [0x04, 0x08, 0x0C, 0x10, 0x14] ∧ serialised b rest = true)) := by
  obtain ⟨ha, h⟩ := Bool.and_eq_true_iff.mp h
  refine ⟨size_of_alignedWord ha, ?_⟩
  cases hr : HostReg.at? offset with
  | none => rw [hr] at h; cases h
  | some r =>
    rw [hr] at h
    have hoffset := HostReg.at?_eq_some hr
    cases r with
    | cmd =>
      obtain ⟨hb, h⟩ := Bool.and_eq_true_iff.mp h
      exact .inl ⟨hoffset, by simpa using hb, h⟩
    | status | full | half | bufWord | pins => exact .inr ⟨hoffset ▸ HostReg.offset_mem_readable nofun, h⟩

/-- The duty at a read: a readable register (R32). -/
theorem serialised_read {b : Bool} {offset size : Nat} {rest : List Turn}
    (h : serialised b (.read offset size :: rest) = true) :
    size = 4 ∧ offset ∈ [0x04, 0x08, 0x0C, 0x10, 0x14] ∧ serialised b rest = true := by
  obtain ⟨ha, h⟩ := Bool.and_eq_true_iff.mp h
  refine ⟨size_of_alignedWord ha, ?_⟩
  cases hr : HostReg.at? offset with
  | none => rw [hr] at h; cases h
  | some r =>
    rw [hr] at h
    have hoffset := HostReg.at?_eq_some hr
    cases r with
    | cmd => cases h
    | status | full | half | bufWord | pins => exact ⟨hoffset ▸ HostReg.offset_mem_readable nofun, h⟩

/-- The engine starts no command, and leaves FAULTED and the schedule alone. -/
theorem engineTurn_keeps_safe {s : State} (h : s.Safe) : ∃ t, engineTurn s = .next t ∧ t.Safe := by
  obtain ⟨hf, hser⟩ := h
  obtain ⟨e, hb, -, ht⟩ | ⟨-, ht⟩ := engineTurn_cases s
  · refine ⟨_, ht, (State.performNext_faulted e s).trans hf, ?_⟩
    rw [State.performNext_schedule]
    exact serialised_of_imp hser fun _ => hb
  · exact ⟨s, ht, hf, hser⟩

/-- A CMD write to an idle block faults nothing, and whatever it starts, the host then waits for. -/
theorem submit_keeps_safe {s : State} (hf : s.faulted = false) (hb : s.busy = false)
    (hser : serialised true s.schedule = true) (w : Word) : ∃ t, submit w s = .next t ∧ t.Safe := by
  obtain ⟨-, ht⟩ | ⟨-, ht⟩ | ⟨i, t, -, -, ht, -, hrest⟩ := submit_of_idle w hf hb
  · exact ⟨_, ht, hf, serialised_of_pending hser _⟩
  · exact ⟨_, ht, hf, serialised_of_pending hser _⟩
  · refine ⟨t, ht, hrest.faulted.trans hf, ?_⟩
    rw [hrest.schedule]
    exact serialised_of_pending hser _

/-- Settles O60, turn by turn. -/
theorem serialisedHostNeverStops : Obligations.SerialisedHostNeverStops := by
  intro s hsafe
  obtain ⟨hf, hser⟩ := hsafe
  cases hs : s.schedule with
  | nil =>
    rw [step_of_empty hf hs]
    exact engineTurn_keeps_safe ⟨hf, hser⟩
  | cons turn rest =>
    rw [hs] at hser
    cases turn with
    | reset => exact ⟨_, step_of_reset hs, hf, hser⟩
    | engine =>
      rw [step_of_engine hf hs]
      exact engineTurn_keeps_safe ⟨hf, hser⟩
    | waitIdle =>
      cases hb : s.busy with
      | true =>
        rw [step_of_waitIdle_of_busy hf hs hb]
        exact engineTurn_keeps_safe ⟨hf, by rw [hs]; exact hser⟩
      | false => exact ⟨_, step_of_waitIdle_of_idle hf hs hb, hf, by rw [State.busy_setSchedule, hb]; exact hser⟩
    | write offset size w =>
      obtain ⟨rfl, ⟨rfl, hb, hrest⟩ | ⟨hmem, hrest⟩⟩ := serialised_write hser
      · rw [step_of_cmdWrite hs]
        exact submit_keeps_safe (s := s.setSchedule rest) hf hb hrest w
      · rw [step_of_write hf hs, hostWrite_readOnly hmem]
        exact ⟨_, rfl, hf, hrest⟩
    | read offset size =>
      obtain ⟨hsize, hmem, hrest⟩ := serialised_read hser
      obtain ⟨w, hw⟩ := hostRead_answers (s.setSchedule rest) ⟨hsize, hmem⟩
      rw [step_of_read hf hs]
      exact ⟨_, hw, hf, hrest⟩

end Sys2Proof.Machine
end
